-- ==== Sys2Proof/Word.lean ====
section
/-! DEFINITION. The machine's words: the widths of 00_scope.md rule R8. Everything is unsigned. -/

namespace Sys2Proof

/-- 8 bits: V registers, timers, memory bytes, the immediate `kk` (R8). -/
abbrev Byte := BitVec 8

/-- 16 bits: I, PC, stack entries, instruction words (R8). -/
abbrev Word := BitVec 16

/-- 12 bits: the address field `nnn` (R8). -/
abbrev Addr12 := BitVec 12

/-- 4 bits: nibbles, the immediate `n`, key codes (R8). -/
abbrev Nibble := BitVec 4

/-- The 4-bit field that selects one of V0..VF (R15, R51). -/
abbrev RegIx := BitVec 4

/-- The 4-bit code of one of the 16 keys (R24). -/
abbrev KeyCode := BitVec 4

end Sys2Proof
end

