-- ==== Sys2Proof/Syntax.lean ====
section
/-! DEFINITION. The instruction set as syntax: one constructor per row of spec/opcode_table.json
(30_encoding.md rule R56). Fields that a row has and its instruction ignores are kept, so that no bit of a
word is lost (log entry 13). -/

namespace Sys2Proof

inductive Instr where
  /-- 00E0 CLS (R64). -/
  | cls
  /-- 00EE RET (R67). -/
  | ret
  /-- 0NNN SYS nnn (R68). -/
  | sys (nnn : Addr12)
  /-- 1NNN JP nnn (R69). -/
  | jp (nnn : Addr12)
  /-- 2NNN CALL nnn (R72). -/
  | call (nnn : Addr12)
  /-- 3XKK SE Vx, kk (R73). -/
  | seImm (x : RegIx) (kk : Byte)
  /-- 4XKK SNE Vx, kk (R74). -/
  | sneImm (x : RegIx) (kk : Byte)
  /-- 5XYN SE Vx, Vy; the last nibble is ignored (R75, R55). -/
  | seReg (x y : RegIx) (ignored : Nibble)
  /-- 6XKK LD Vx, kk (R77). -/
  | ldImm (x : RegIx) (kk : Byte)
  /-- 7XKK ADD Vx, kk (R78). -/
  | addImm (x : RegIx) (kk : Byte)
  /-- 8XY0 MOV Vx, Vy (R79). -/
  | mov (x y : RegIx)
  /-- 8XY1 OR Vx, Vy (R80). -/
  | orReg (x y : RegIx)
  /-- 8XY2 AND Vx, Vy (R81). -/
  | andReg (x y : RegIx)
  /-- 8XY3 XOR Vx, Vy (R82). -/
  | xorReg (x y : RegIx)
  /-- 8XY4 ADD Vx, Vy (R83). -/
  | addReg (x y : RegIx)
  /-- 8XY5 SUB Vx, Vy (R84). -/
  | subReg (x y : RegIx)
  /-- 8XY6 SHR Vx; y is ignored (R85). -/
  | shr (x y : RegIx)
  /-- 8XY7 SUBN Vx, Vy (R86). -/
  | subn (x y : RegIx)
  /-- 8XYE SHL Vx; y is ignored (R87). -/
  | shl (x y : RegIx)
  /-- 8XYs, s in 8..D or F: no-op of class 8 (R103). -/
  | nop8 (x y : RegIx) (s : Nibble)
  /-- 9XYN SNE Vx, Vy; the last nibble is ignored (R76, R55). -/
  | sneReg (x y : RegIx) (ignored : Nibble)
  /-- ANNN LD I, nnn (R91). -/
  | ldI (nnn : Addr12)
  /-- BNNN JP V0, nnn (R71). -/
  | jpV0 (nnn : Addr12)
  /-- CXKK RND Vx, kk (R90). -/
  | rnd (x : RegIx) (kk : Byte)
  /-- DXYN DRW Vx, Vy, n (R65). -/
  | drw (x y : RegIx) (n : Nibble)
  /-- EX9E SKP Vx (R97). -/
  | skp (x : RegIx)
  /-- EXA1 SKNP Vx (R98). -/
  | sknp (x : RegIx)
  /-- EXss, any other low byte: no-op of class E (R103). -/
  | nopE (x : RegIx) (s : Byte)
  /-- FX07 LD Vx, DT (R99). -/
  | ldVxDt (x : RegIx)
  /-- FX0A LD Vx, K (R102). -/
  | ldVxK (x : RegIx)
  /-- FX15 LD DT, Vx (R100). -/
  | ldDtVx (x : RegIx)
  /-- FX18 LD ST, Vx (R101). -/
  | ldStVx (x : RegIx)
  /-- FX1E ADD I, Vx (R92). -/
  | addI (x : RegIx)
  /-- FX29 LD F, Vx (R93). -/
  | ldF (x : RegIx)
  /-- FX33 LD B, Vx (R94). -/
  | ldB (x : RegIx)
  /-- FX55 LD [I], Vx (R95). -/
  | ldMemVx (x : RegIx)
  /-- FX65 LD Vx, [I] (R96). -/
  | ldVxMem (x : RegIx)
  /-- FXss, any other low byte: no-op of class F (R103). -/
  | nopF (x : RegIx) (s : Byte)
  deriving DecidableEq, Repr

end Sys2Proof
end

