-- ==== Sys2Proof/Decode.lean ====
section
/-! DEFINITION. The decoder of 30_encoding.md rule R59, the opcode map of rule R56 as data, and the encoder
written from that map's patterns. -/

namespace Sys2Proof

/-! ## Fields (R50, R51) -/

/-- `n0`, the primary opcode class. -/
def n0 (w : Word) : Nibble := w.extractLsb' 12 4

/-- `n1`, the register index x. -/
def n1 (w : Word) : Nibble := w.extractLsb' 8 4

/-- `n2`, the register index y. -/
def n2 (w : Word) : Nibble := w.extractLsb' 4 4

/-- `n3`, the immediate n or a secondary opcode. -/
def n3 (w : Word) : Nibble := w.extractLsb' 0 4

/-- `kk`, the immediate byte. -/
def kkField (w : Word) : Byte := w.extractLsb' 0 8

/-- `nnn`, the address. -/
def nnnField (w : Word) : Addr12 := w.extractLsb' 0 12

/-! ## Secondary dispatch (R54, R55) -/

/-- Class 0 compares the whole word. -/
def decode0 (w : Word) : Instr :=
  if w = 0x00E0#16 then .cls else if w = 0x00EE#16 then .ret else .sys (nnnField w)

/-- Class 8 dispatches on n3. -/
def decode8 (x y : RegIx) (s : Nibble) : Instr :=
  match s with
  | 0x0#4 => .mov x y
  | 0x1#4 => .orReg x y
  | 0x2#4 => .andReg x y
  | 0x3#4 => .xorReg x y
  | 0x4#4 => .addReg x y
  | 0x5#4 => .subReg x y
  | 0x6#4 => .shr x y
  | 0x7#4 => .subn x y
  | 0xE#4 => .shl x y
  | s => .nop8 x y s

/-- Class E dispatches on the low byte. -/
def decodeE (x : RegIx) (s : Byte) : Instr :=
  match s with
  | 0x9E#8 => .skp x
  | 0xA1#8 => .sknp x
  | s => .nopE x s

/-- Class F dispatches on the low byte. -/
def decodeF (x : RegIx) (s : Byte) : Instr :=
  match s with
  | 0x07#8 => .ldVxDt x
  | 0x0A#8 => .ldVxK x
  | 0x15#8 => .ldDtVx x
  | 0x18#8 => .ldStVx x
  | 0x1E#8 => .addI x
  | 0x29#8 => .ldF x
  | 0x33#8 => .ldB x
  | 0x55#8 => .ldMemVx x
  | 0x65#8 => .ldVxMem x
  | s => .nopF x s

/-- The decoder: a total function of the word (R49, R59). The last line is class 0xF. -/
def decode (w : Word) : Instr :=
  match n0 w with
  | 0x0#4 => decode0 w
  | 0x1#4 => .jp (nnnField w)
  | 0x2#4 => .call (nnnField w)
  | 0x3#4 => .seImm (n1 w) (kkField w)
  | 0x4#4 => .sneImm (n1 w) (kkField w)
  | 0x5#4 => .seReg (n1 w) (n2 w) (n3 w)
  | 0x6#4 => .ldImm (n1 w) (kkField w)
  | 0x7#4 => .addImm (n1 w) (kkField w)
  | 0x8#4 => decode8 (n1 w) (n2 w) (n3 w)
  | 0x9#4 => .sneReg (n1 w) (n2 w) (n3 w)
  | 0xA#4 => .ldI (nnnField w)
  | 0xB#4 => .jpV0 (nnnField w)
  | 0xC#4 => .rnd (n1 w) (kkField w)
  | 0xD#4 => .drw (n1 w) (n2 w) (n3 w)
  | 0xE#4 => decodeE (n1 w) (kkField w)
  | _ => decodeF (n1 w) (kkField w)

/-! ## Bytes (20_memory.md rule R36) -/

/-- The instruction word of two bytes: the byte at the lower address is the high half. -/
def wordOfBytes (high low : Byte) : Word := high ++ low

/-- The two bytes of a word, the one at the lower address first. -/
def bytesOfWord (w : Word) : List Byte := [w.extractLsb' 8 8, w.extractLsb' 0 8]

/-- Why a byte sequence gives no instruction. No word is illegal (R49), so the only reason is its length
(log entry 13). -/
inductive DecodeError where
  /-- Fewer than two bytes. Safe: a fetch always reads two. -/
  | truncated
  deriving DecidableEq, Repr

/-- The instruction at the start of a byte sequence, and the bytes after it. -/
def decodeBytes : List Byte → Except DecodeError (Instr × List Byte)
  | high :: low :: rest => .ok (decode (wordOfBytes high low), rest)
  | _ => .error .truncated

/-- The bytes, as the memory holds them, of a word numbered as spec/opcode_table.json numbers it. -/
def tableBytes (nbits w : Nat) : List Byte := bytesOfWord (BitVec.ofNat 16 (w % 2 ^ nbits))

/-- The instruction the decoder reads from a row's word. -/
def decodeTableWord (nbits w : Nat) : Option Instr :=
  match decodeBytes (tableBytes nbits w) with
  | .ok (i, _) => some i
  | .error _ => none

/-! ## Encoder (the formats of R52, the patterns of R56) -/

/-- Format NNN. -/
def wordNNN (c : Nibble) (nnn : Addr12) : Word := c ++ nnn

/-- Formats XKK and XS. -/
def wordXKK (c : Nibble) (x : RegIx) (kk : Byte) : Word := c ++ x ++ kk

/-- Formats XY, XYS and XYN. -/
def wordXYN (c : Nibble) (x y : RegIx) (n : Nibble) : Word := c ++ x ++ y ++ n

/-- The word of an instruction. -/
def encode : Instr → Word
  | .cls => 0x00E0#16
  | .ret => 0x00EE#16
  | .sys nnn => wordNNN 0x0 nnn
  | .jp nnn => wordNNN 0x1 nnn
  | .call nnn => wordNNN 0x2 nnn
  | .seImm x kk => wordXKK 0x3 x kk
  | .sneImm x kk => wordXKK 0x4 x kk
  | .seReg x y ignored => wordXYN 0x5 x y ignored
  | .ldImm x kk => wordXKK 0x6 x kk
  | .addImm x kk => wordXKK 0x7 x kk
  | .mov x y => wordXYN 0x8 x y 0x0
  | .orReg x y => wordXYN 0x8 x y 0x1
  | .andReg x y => wordXYN 0x8 x y 0x2
  | .xorReg x y => wordXYN 0x8 x y 0x3
  | .addReg x y => wordXYN 0x8 x y 0x4
  | .subReg x y => wordXYN 0x8 x y 0x5
  | .shr x y => wordXYN 0x8 x y 0x6
  | .subn x y => wordXYN 0x8 x y 0x7
  | .shl x y => wordXYN 0x8 x y 0xE
  | .nop8 x y s => wordXYN 0x8 x y s
  | .sneReg x y ignored => wordXYN 0x9 x y ignored
  | .ldI nnn => wordNNN 0xA nnn
  | .jpV0 nnn => wordNNN 0xB nnn
  | .rnd x kk => wordXKK 0xC x kk
  | .drw x y n => wordXYN 0xD x y n
  | .skp x => wordXKK 0xE x 0x9E
  | .sknp x => wordXKK 0xE x 0xA1
  | .nopE x s => wordXKK 0xE x s
  | .ldVxDt x => wordXKK 0xF x 0x07
  | .ldVxK x => wordXKK 0xF x 0x0A
  | .ldDtVx x => wordXKK 0xF x 0x15
  | .ldStVx x => wordXKK 0xF x 0x18
  | .addI x => wordXKK 0xF x 0x1E
  | .ldF x => wordXKK 0xF x 0x29
  | .ldB x => wordXKK 0xF x 0x33
  | .ldMemVx x => wordXKK 0xF x 0x55
  | .ldVxMem x => wordXKK 0xF x 0x65
  | .nopF x s => wordXKK 0xF x s

/-! ## The opcode map as data (R56, R57) -/

/-- One row of the map, with its number in R56: a word `w` matches when `w AND mask = match`. -/
structure OpcodeRow where
  number : Nat
  mnemonic : String
  matchBits : Word
  mask : Word
  deriving DecidableEq, Repr

/-- The row selects the word. -/
def OpcodeRow.matches (r : OpcodeRow) (w : Word) : Bool := (w &&& r.mask) == r.matchBits

/-- How many bits of the mask are 1. -/
def OpcodeRow.maskBits (r : OpcodeRow) : Nat := (List.range 16).countP r.mask.getLsbD

/-- Rows 1 to 19 of R56. -/
def opcodeRowsLow : List OpcodeRow :=
  [⟨1, "CLS", 0x00E0, 0xFFFF⟩, ⟨2, "RET", 0x00EE, 0xFFFF⟩, ⟨3, "SYS_nnn", 0x0000, 0xF000⟩,
   ⟨4, "JP_nnn", 0x1000, 0xF000⟩, ⟨5, "CALL_nnn", 0x2000, 0xF000⟩, ⟨6, "SE_Vx__kk", 0x3000, 0xF000⟩,
   ⟨7, "SNE_Vx__kk", 0x4000, 0xF000⟩, ⟨8, "SE_Vx__Vy", 0x5000, 0xF000⟩, ⟨9, "LD_Vx__kk", 0x6000, 0xF000⟩,
   ⟨10, "ADD_Vx__kk", 0x7000, 0xF000⟩, ⟨11, "MOV_Vx__Vy", 0x8000, 0xF00F⟩,
   ⟨12, "OR_Vx__Vy", 0x8001, 0xF00F⟩, ⟨13, "AND_Vx__Vy", 0x8002, 0xF00F⟩,
   ⟨14, "XOR_Vx__Vy", 0x8003, 0xF00F⟩, ⟨15, "ADD_Vx__Vy", 0x8004, 0xF00F⟩,
   ⟨16, "SUB_Vx__Vy", 0x8005, 0xF00F⟩, ⟨17, "SHR_Vx", 0x8006, 0xF00F⟩, ⟨18, "SUBN_Vx__Vy", 0x8007, 0xF00F⟩,
   ⟨19, "SHL_Vx", 0x800E, 0xF00F⟩]

/-- Rows 20 to 38 of R56. -/
def opcodeRowsHigh : List OpcodeRow :=
  [⟨20, "NOP", 0x8000, 0xF000⟩, ⟨21, "SNE_Vx__Vy", 0x9000, 0xF000⟩, ⟨22, "LD_I__nnn", 0xA000, 0xF000⟩,
   ⟨23, "JP_V0__nnn", 0xB000, 0xF000⟩, ⟨24, "RND_Vx__kk", 0xC000, 0xF000⟩,
   ⟨25, "DRW_Vx__Vy__n", 0xD000, 0xF000⟩, ⟨26, "SKP_Vx", 0xE09E, 0xF0FF⟩, ⟨27, "SKNP_Vx", 0xE0A1, 0xF0FF⟩,
   ⟨28, "NOP", 0xE000, 0xF000⟩, ⟨29, "LD_Vx__DT", 0xF007, 0xF0FF⟩, ⟨30, "LD_Vx__K", 0xF00A, 0xF0FF⟩,
   ⟨31, "LD_DT__Vx", 0xF015, 0xF0FF⟩, ⟨32, "LD_ST__Vx", 0xF018, 0xF0FF⟩, ⟨33, "ADD_I__Vx", 0xF01E, 0xF0FF⟩,
   ⟨34, "LD_F__Vx", 0xF029, 0xF0FF⟩, ⟨35, "LD_B__Vx", 0xF033, 0xF0FF⟩, ⟨36, "LD__I___Vx", 0xF055, 0xF0FF⟩,
   ⟨37, "LD_Vx___I", 0xF065, 0xF0FF⟩, ⟨38, "NOP", 0xF000, 0xF000⟩]

/-- The complete opcode map, in the order of R56. -/
def opcodeMap : List OpcodeRow := opcodeRowsLow ++ opcodeRowsHigh

/-- The number, in R56, of the row an instruction belongs to. -/
def Instr.rowNumber : Instr → Nat
  | .cls => 1
  | .ret => 2
  | .sys _ => 3
  | .jp _ => 4
  | .call _ => 5
  | .seImm _ _ => 6
  | .sneImm _ _ => 7
  | .seReg _ _ _ => 8
  | .ldImm _ _ => 9
  | .addImm _ _ => 10
  | .mov _ _ => 11
  | .orReg _ _ => 12
  | .andReg _ _ => 13
  | .xorReg _ _ => 14
  | .addReg _ _ => 15
  | .subReg _ _ => 16
  | .shr _ _ => 17
  | .subn _ _ => 18
  | .shl _ _ => 19
  | .nop8 _ _ _ => 20
  | .sneReg _ _ _ => 21
  | .ldI _ => 22
  | .jpV0 _ => 23
  | .rnd _ _ => 24
  | .drw _ _ _ => 25
  | .skp _ => 26
  | .sknp _ => 27
  | .nopE _ _ => 28
  | .ldVxDt _ => 29
  | .ldVxK _ => 30
  | .ldDtVx _ => 31
  | .ldStVx _ => 32
  | .addI _ => 33
  | .ldF _ => 34
  | .ldB _ => 35
  | .ldMemVx _ => 36
  | .ldVxMem _ => 37
  | .nopF _ _ => 38

end Sys2Proof
end

