-- ==== Sys2Proof/Config.lean ====
section
/-! DEFINITION. What the spec leaves to the machine's builder (00_scope.md rule R6), and the free value
of the random collaborator. A state carries its parameters, so a statement about every state holds for
every admitted MEM_SIZE, IPF and FONT (log entry 1). -/

namespace Sys2Proof

/-- The parameters of rule R6 that stay fixed while the machine runs. The bounds are R6's own. -/
structure Config where
  /-- MEM_SIZE, the byte size of the memory array. -/
  memSize : Nat
  /-- IPF, the number of instructions completed per frame. -/
  ipf : Nat
  /-- FONT, the 80 bytes of the digit table. -/
  font : Vector Byte 80
  memSize_low : 0x200 < memSize := by decide
  memSize_high : memSize ≤ 0x10000 := by decide
  ipf_pos : 0 < ipf := by decide
  deriving DecidableEq, Repr

/-- FREE VALUE: what the random collaborator answers to the draw of the given number (R4, R90). It has no
body, so no proof can know it. `State.draws` counts the draws (log entry 6). -/
opaque Config.randomDraw : Nat → Nat

end Sys2Proof
end

