-- ==== Sys2Proof/Machine/Reference.lean ====
section
/-! DEFINITION. The parameters State.reset takes. The spec leaves them open (00_scope.md rule R6); any other
`Config` is as good a machine, and statements range over all of them. -/

namespace Sys2Proof.Machine

/-- PRESUMED (log entry 2): the customary font of 93_implementation_defined.md G9, glyph d at 5·d. -/
def customaryFont : Vector Byte 80 :=
  #v[0xF0, 0x90, 0x90, 0x90, 0xF0, 0x20, 0x60, 0x20, 0x20, 0x70,
     0xF0, 0x10, 0xF0, 0x80, 0xF0, 0xF0, 0x10, 0xF0, 0x10, 0xF0,
     0x90, 0x90, 0xF0, 0x10, 0x10, 0xF0, 0x80, 0xF0, 0x10, 0xF0,
     0xF0, 0x80, 0xF0, 0x90, 0xF0, 0xF0, 0x10, 0x20, 0x40, 0x40,
     0xF0, 0x90, 0xF0, 0x90, 0xF0, 0xF0, 0x90, 0xF0, 0x10, 0xF0,
     0xF0, 0x90, 0xF0, 0x90, 0x90, 0xE0, 0x90, 0xE0, 0x90, 0xE0,
     0xF0, 0x80, 0x80, 0x80, 0xF0, 0xE0, 0x90, 0x90, 0x90, 0xE0,
     0xF0, 0x80, 0xF0, 0x80, 0xF0, 0xF0, 0x80, 0xF0, 0x80, 0x80]

/-- DESIGN CHOICE (log entry 1): the conventional memory size and the default batch size. -/
def referenceConfig : Config where
  memSize := 4096
  ipf := 4
  font := customaryFont

end Sys2Proof.Machine
end

