-- ==== Sys2Proof/Machine/State.lean ====
section
/-! DEFINITION. The machine's state: every piece of state of 10_state.md, its parameters, and the channels of
00_scope.md rule R4 as plain data. -/

namespace Sys2Proof.Machine

/-- A key slot's value (R24). -/
inductive KeyState where
  | released
  | pressed
  deriving DecidableEq, Repr

/-- RUN, the control state (R27). -/
inductive Run where
  | running
  /-- An FX0A at the program counter waits for a key; `x` is its destination. -/
  | waiting (x : RegIx)
  /-- Terminal (R115). -/
  | halted
  deriving DecidableEq, Repr

/-- PHASE of the pacing loop (R28). -/
inductive Phase where
  | atPoll
  | inBatch
  deriving DecidableEq, Repr

/-- One key transition of a poll (R113). -/
structure KeyEvent where
  key : KeyCode
  value : KeyState
  deriving DecidableEq, Repr

/-- One answer of `Poll()`: key transitions in the order delivered, and the halt request (R4, R113). -/
structure PollAnswer where
  transitions : List KeyEvent
  halt : Bool
  deriving DecidableEq, Repr

/-- One answer of `WaitKey()` (R4, R102). -/
inductive WaitAnswer where
  | keyReceived (k : KeyCode)
  | halt
  deriving DecidableEq, Repr

/-- FB[row][col], row in 0..31, col in 0..63; `true` is a set pixel (R25). -/
abbrev Framebuffer := Vector (Vector Bool 64) 32

/-- What memory holds beyond its reset contents: address and byte pairs in the canonical form of
`Memory.wf` (log entry 10). -/
abbrev Memory := List Host.Cell

/-- The whole state. The fields from `cfg` on are the model's own (INVENTORY.md). -/
structure State where
  /-- V0..VF (R15, R16). -/
  v : Vector Byte 16
  /-- The index register I (R17). -/
  i : Word
  /-- The program counter: the address of the instruction being executed (R19). -/
  pc : Word
  /-- STACK[0..15] (R20). -/
  stack : Vector Word 16
  /-- SP, the number of stack entries in use (R21). -/
  sp : Fin 17
  /-- DT, the delay timer (R22). -/
  dt : Byte
  /-- ST, the sound timer (R23). -/
  st : Byte
  /-- KEY[0..15] (R24). -/
  keys : Vector KeyState 16
  /-- The framebuffer (R25). -/
  fb : Framebuffer
  /-- The memory array (R26, R32). -/
  mem : Memory
  /-- RUN (R27). -/
  run : Run
  /-- PHASE (R28). -/
  phase : Phase
  /-- SLOT, the instructions completed in this frame's batch (R28). -/
  slot : Nat
  /-- MEM_SIZE, IPF and FONT (R6, log entry 1). No step changes them. -/
  cfg : Config
  /-- The coming answers of `Poll()`, the next one first (log entry 4). -/
  polls : List PollAnswer
  /-- The coming answers of `WaitKey()`, the next one first (log entry 5). -/
  waits : List WaitAnswer
  /-- The number of random draws made, the argument of `Config.randomDraw` (log entry 6). -/
  draws : Nat
  /-- The framebuffer last given to `Present`, if any (R114, log entry 11). -/
  display : Option Framebuffer
  /-- How often `Present` was requested (R114, log entry 11). -/
  presents : Nat
  deriving DecidableEq, Repr

/-- Why the machine stops. The core itself raises no fault (R104). -/
inductive Fault where
  /-- Raised by `loopStep` in a state whose SLOT is above IPF: rule R110 enables no step there and rule R28
  excludes the state. Safe: no run from a state of rule R122 reaches it (log entry 8). -/
  | slotBeyondBatch
  deriving DecidableEq, Repr

/-- Why an instruction has no meaning. -/
inductive Refusal where
  /-- Raised by an arm of `exec` whose instruction is not modelled yet. Safe. No arm raises it now. -/
  | notModelled (mnemonic : String)
  deriving DecidableEq, Repr

/-- A framebuffer with every pixel 0. -/
def blankScreen : Framebuffer := Vector.replicate 32 (Vector.replicate 64 false)

/-- The machine right after boot (R122), with the reference parameters and no program image (log entries 1,
2, 3); the channels are empty and unused (log entries 4, 5, 6, 11). -/
def State.reset : State where
  v := Vector.replicate 16 0
  i := 0
  pc := 0x200
  stack := Vector.replicate 16 0
  sp := 0
  dt := 0
  st := 0
  keys := Vector.replicate 16 .released
  fb := blankScreen
  mem := []
  run := .running
  phase := .atPoll
  slot := 0
  cfg := referenceConfig
  polls := []
  waits := []
  draws := 0
  display := none
  presents := 0

end Sys2Proof.Machine
end

