-- ==== Sys2Proof/Machine/Ops.lean ====
section
/-! DEFINITION. The named operations over memory, registers, stack, timers, keys and the program counter.
The core has no exceptions (60_exceptions.md rules R104, R108, R109), so no operation takes one or returns
from one. -/

namespace Sys2Proof.Machine

/-- What every meaning answers. -/
abbrev Result := Host.Outcome State Fault Refusal

/-! ## Memory (20_memory.md) -/

/-- What an unlisted address reads as: the reset contents without a program image (R26, R34, R122). -/
def resetByte (cfg : Config) (a : Nat) : Byte := if h : a < 80 then cfg.font[a] else 0

/-- The byte listed for an address. -/
def Memory.lookup : Memory → Nat → Option Byte
  | [], _ => none
  | (b, w) :: m, a => if a = b then some w else Memory.lookup m a

/-- The byte at an address below MEM_SIZE. -/
def Memory.read (cfg : Config) (m : Memory) (a : Nat) : Byte :=
  (Memory.lookup m a).getD (resetByte cfg a)

/-- Put a cell before the first one with a higher address. -/
def Memory.insert (c : Host.Cell) : Memory → Memory
  | [] => [c]
  | d :: m => if c.1 < d.1 then c :: d :: m else d :: Memory.insert c m

/-- Store a byte at an address below MEM_SIZE. What an unlisted address reads as is not listed. -/
def Memory.store (cfg : Config) (m : Memory) (a : Nat) (b : Byte) : Memory :=
  if b = resetByte cfg a then m.filter (fun c => c.1 != a)
  else Memory.insert (a, b) (m.filter (fun c => c.1 != a))

/-- The canonical form: addresses strictly rising and inside the array, and no entry equal to what an
unlisted address reads as. -/
abbrev Memory.wf (cfg : Config) (m : Memory) : Prop :=
  m.Pairwise (fun c d => c.1 < d.1) ∧ ∀ c ∈ m, c.1 < cfg.memSize ∧ c.2 ≠ resetByte cfg c.1

/-- `MemRead(a, 1)`: the address is reduced modulo MEM_SIZE (R33). -/
def State.readByte (s : State) (a : Nat) : Byte := Memory.read s.cfg s.mem (a % s.cfg.memSize)

/-- `MemWrite(a, 1, b)` (R33). -/
def State.writeByte (s : State) (a : Nat) (b : Byte) : State :=
  { s with mem := Memory.store s.cfg s.mem (a % s.cfg.memSize) b }

/-- The `n` bytes from address `a` upward, each address reduced on its own. -/
def State.readBytes (s : State) (a n : Nat) : List Byte := (List.range n).map fun k => s.readByte (a + k)

/-- Store bytes from address `a` upward, in that order, each address reduced on its own. -/
def State.writeBytes (s : State) (a : Nat) : List Byte → State
  | [] => s
  | b :: bs => (s.writeByte a b).writeBytes (a + 1) bs

/-- `Fetch(pc)` (R36): the byte at the lower address is the high half. The second address is not cut to 16
bits before the reduction (log entry 9). -/
def State.fetch (s : State) : Word :=
  wordOfBytes (s.readByte s.pc.toNat) (s.readByte (s.pc.toNat + 1))

/-! ## Registers (10_state.md) -/

/-- `V[x]` (R15). -/
def State.reg (s : State) (x : RegIx) : Byte := s.v[x.toNat]'x.isLt

/-- `V[x] <- b` (R15). -/
def State.setReg (s : State) (x : RegIx) (b : Byte) : State := { s with v := s.v.set x.toNat b x.isLt }

/-- `I <- a` (R17). -/
def State.setI (s : State) (a : Word) : State := { s with i := a }

/-- `pc <- a` (R19). -/
def State.setPc (s : State) (a : Word) : State := { s with pc := a }

/-- `DT <- b` (R22). -/
def State.setDt (s : State) (b : Byte) : State := { s with dt := b }

/-- `ST <- b` (R23). -/
def State.setSt (s : State) (b : Byte) : State := { s with st := b }

/-- `KEY[k]` (R24). -/
def State.key (s : State) (k : KeyCode) : KeyState := s.keys[k.toNat]'k.isLt

/-- `KEY[k] <- value` (R24). -/
def State.setKey (s : State) (k : KeyCode) (value : KeyState) : State :=
  { s with keys := s.keys.set k.toNat value k.isLt }

/-- Replace the framebuffer (R25). -/
def State.setFb (s : State) (fb : Framebuffer) : State := { s with fb := fb }

/-- `RUN <- r` (R27). -/
def State.setRun (s : State) (r : Run) : State := { s with run := r }

/-- Load a run of registers from `V[k]` upward. -/
def State.setRegs (s : State) (k : Nat) : List Byte → State
  | [] => s
  | b :: bs => (s.setReg (BitVec.ofNat 4 k) b).setRegs (k + 1) bs

/-- One draw of the random collaborator: its answer, and the state that has made it (R90, log entry 6). -/
def State.draw (s : State) : Nat × State := (Config.randomDraw s.draws, { s with draws := s.draws + 1 })

/-! ## The program counter (41_control_flow.md rule R66) -/

/-- `npc <- pc + 2`, modulo 2^16. -/
def State.advance (s : State) : State := s.setPc (s.pc + 2)

/-- A conditional skip: `npc <- pc + 4` when `c` holds, else `npc <- pc + 2`. -/
def State.skipIf (c : Bool) (s : State) : State := if c then s.setPc (s.pc + 4) else s.advance

/-! ## The return stack (10_state.md rules R20, R21) -/

/-- `STACK[j]`. -/
def State.stackAt (s : State) (j : Fin 16) : Word := s.stack[j]

/-- Push: the entry goes to STACK[SP]; with SP = 16 the push is dropped (R72). -/
def State.push (s : State) (a : Word) : State :=
  if s.sp.val < 16 then
    { s with
      stack := s.stack.set (Fin.ofNat 16 s.sp.val) a
      sp := Fin.ofNat 17 (s.sp.val + 1) }
  else s

/-- The entry a pop reads, STACK[SP - 1]; of use with SP > 0. -/
def State.top (s : State) : Word := s.stackAt (Fin.ofNat 16 (s.sp.val - 1))

/-- `SP <- SP - 1`; the entry is kept (R67). -/
def State.drop (s : State) : State := { s with sp := Fin.ofNat 17 (s.sp.val - 1) }

end Sys2Proof.Machine
end

