-- ==== Sys2Proof/Machine/Operands.lean ====
section
/-! DEFINITION. The operand forms of 30_encoding.md rule R60 that need a computation, and the results the
instructions compute from them. All are unsigned (00_scope.md rule R8). -/

namespace Sys2Proof.Machine

/-- `zext_16(nnn)` (R51). -/
def addressOf (nnn : Addr12) : Word := nnn.zeroExtend 16

/-- The key number in a register: its low 4 bits (R97, R98). -/
def keyIndex (b : Byte) : KeyCode := b.extractLsb' 0 4

/-- The key number a register names. -/
def State.keyOf (s : State) (x : RegIx) : KeyCode := keyIndex (s.reg x)

/-- The value a key code leaves in a register (R102). -/
def keyByte (k : KeyCode) : Byte := k.zeroExtend 8

/-- The target of BNNN, kept at 16 bits (R71). -/
def jumpTarget (nnn : Addr12) (v0 : Byte) : Word := addressOf nnn + v0.zeroExtend 16

/-- The glyph address of FX29, `5 * b` (R93). -/
def glyphAddress (b : Byte) : Word := 5 * b.zeroExtend 16

/-- The three decimal digits of FX33, hundreds first (R94). -/
def bcdDigits (b : Byte) : List Byte :=
  [BitVec.ofNat 8 (b.toNat / 100), BitVec.ofNat 8 (b.toNat / 10 % 10), BitVec.ofNat 8 (b.toNat % 10)]

/-- The result of CXKK for the draw `r`: `r mod (kk + 1)` (R90). -/
def boundedDraw (r : Nat) (kk : Byte) : Byte := BitVec.ofNat 8 (r % (kk.toNat + 1))

/-- The registers `V[0]..V[x]`, the run of FX55 (R95). -/
def State.regRun (s : State) (x : RegIx) : List Byte :=
  (List.range (x.toNat + 1)).map fun k => s.reg (BitVec.ofNat 4 k)

/-! ## 8-bit results (42_alu.md rule R89) -/

/-- `(a + b) mod 256`. -/
def sumByte (a b : Byte) : Byte := BitVec.ofNat 8 (a.toNat + b.toNat)

/-- `(a - b) mod 256`. -/
def diffByte (a b : Byte) : Byte := BitVec.ofInt 8 ((a.toNat : Int) - b.toNat)

/-- `a >> 1`, logical. -/
def shiftedRight (a : Byte) : Byte := a >>> 1

/-- `(a << 1) mod 256`. -/
def shiftedLeft (a : Byte) : Byte := a <<< 1

/-! ## The framebuffer (40_display.md rule R65) -/

/-- `FB[row][col]`. -/
def Framebuffer.pixel (fb : Framebuffer) (row : Fin 32) (col : Fin 64) : Bool := fb[row][col]

/-- `FB[row][col] <- FB[row][col] XOR 1`. -/
def Framebuffer.flip (fb : Framebuffer) (row : Fin 32) (col : Fin 64) : Framebuffer :=
  fb.set row (fb[row].set col (!fb[row][col]))

/-- One sprite bit 1 at a pixel: the collision so far, then the flip. -/
def drawPixel (row : Fin 32) (col : Fin 64) (acc : Framebuffer × Bool) : Framebuffer × Bool :=
  (Framebuffer.flip acc.1 row col, acc.2 || Framebuffer.pixel acc.1 row col)

/-- The columns `cs` of a sprite row: bit 7 of the byte is column offset 0. -/
def drawRow (cx : Nat) (row : Fin 32) (b : Byte) (cs : List Nat) (acc : Framebuffer × Bool) :
    Framebuffer × Bool :=
  cs.foldl (fun acc c => if b.getLsbD (7 - c) then drawPixel row (Fin.ofNat 64 (cx + c)) acc else acc) acc

/-- The rows of a sprite from row `cy` downward, with wraparound: the new framebuffer and the collision. -/
def drawSprite (cx cy : Nat) : List Byte → Framebuffer × Bool → Framebuffer × Bool
  | [], acc => acc
  | b :: bs, acc => drawSprite cx (cy + 1) bs (drawRow cx (Fin.ofNat 32 cy) b (List.range 8) acc)

end Sys2Proof.Machine
end

