-- ==== Sys2Proof/Machine/Flags.lean ====
section
/-! DEFINITION. The flags: every one lives in VF and is written last (10_state.md rule R16, 00_scope.md rule
R11). -/

namespace Sys2Proof.Machine

/-- VF's register number. -/
def vf : RegIx := 0xF#4

/-- A flag's byte: 1 or 0. -/
def flagByte (b : Bool) : Byte := if b then 1 else 0

/-- `V[0xF] <- flag`. -/
def State.setFlag (s : State) (b : Bool) : State := s.setReg vf (flagByte b)

/-- 8XY4: the unsigned sum exceeds 255 (R83). -/
def carry (a b : Byte) : Bool := decide (255 < a.toNat + b.toNat)

/-- 8XY5 and 8XY7: NOT-borrow, minuend ≥ subtrahend (R84, R86). -/
def notBorrow (a b : Byte) : Bool := decide (b.toNat ≤ a.toNat)

/-- 8XY6: the bit shifted out at the right (R85). -/
def lowBit (a : Byte) : Bool := a.getLsbD 0

/-- 8XYE: the bit shifted out at the left (R87). -/
def highBit (a : Byte) : Bool := a.getLsbD 7

/-- FX1E's sum, computed without truncation (R92). -/
def indexSum (i : Word) (b : Byte) : Nat := i.toNat + b.toNat

/-- FX1E: the sum exceeds the literal 0xFFF (R92). -/
def indexOverflow (i : Word) (b : Byte) : Bool := decide (0xFFF < indexSum i b)

end Sys2Proof.Machine
end

