-- ==== Sys2Proof/Machine/Alu.lean ====
section
/-! DEFINITION. The 8-bit ALU and register instructions (42_alu.md). Operands are read before any write and a
flag is written last (00_scope.md rule R11). -/

namespace Sys2Proof.Machine

/-- A result in V[x], no flag, the default advance. -/
def State.write (s : State) (x : RegIx) (b : Byte) : Result := .next (s.setReg x b).advance

/-- A result in V[x], then the flag in VF, the default advance. -/
def State.writeFlagged (s : State) (x : RegIx) (b : Byte) (flag : Bool) : Result :=
  .next ((s.setReg x b).setFlag flag).advance

/-- 6XKK LD Vx, kk (R77). -/
def execLdImm (x : RegIx) (kk : Byte) (s : State) : Result := s.write x kk

/-- 7XKK ADD Vx, kk (R78). -/
def execAddImm (x : RegIx) (kk : Byte) (s : State) : Result := s.write x (sumByte (s.reg x) kk)

/-- 8XY0 MOV Vx, Vy (R79). -/
def execMov (x y : RegIx) (s : State) : Result := s.write x (s.reg y)

/-- 8XY1 OR Vx, Vy (R80). -/
def execOr (x y : RegIx) (s : State) : Result := s.write x (s.reg x ||| s.reg y)

/-- 8XY2 AND Vx, Vy (R81). -/
def execAnd (x y : RegIx) (s : State) : Result := s.write x (s.reg x &&& s.reg y)

/-- 8XY3 XOR Vx, Vy (R82). -/
def execXor (x y : RegIx) (s : State) : Result := s.write x (s.reg x ^^^ s.reg y)

/-- 8XY4 ADD Vx, Vy (R83). -/
def execAdd (x y : RegIx) (s : State) : Result :=
  s.writeFlagged x (sumByte (s.reg x) (s.reg y)) (carry (s.reg x) (s.reg y))

/-- 8XY5 SUB Vx, Vy (R84). -/
def execSub (x y : RegIx) (s : State) : Result :=
  s.writeFlagged x (diffByte (s.reg x) (s.reg y)) (notBorrow (s.reg x) (s.reg y))

/-- 8XY6 SHR Vx (R85): y is ignored. -/
def execShr (x _y : RegIx) (s : State) : Result :=
  s.writeFlagged x (shiftedRight (s.reg x)) (lowBit (s.reg x))

/-- 8XY7 SUBN Vx, Vy (R86). -/
def execSubn (x y : RegIx) (s : State) : Result :=
  s.writeFlagged x (diffByte (s.reg y) (s.reg x)) (notBorrow (s.reg y) (s.reg x))

/-- 8XYE SHL Vx (R87): y is ignored. -/
def execShl (x _y : RegIx) (s : State) : Result :=
  s.writeFlagged x (shiftedLeft (s.reg x)) (highBit (s.reg x))

/-- CXKK RND Vx, kk (R90): the drawn value is free. -/
def execRnd (x : RegIx) (kk : Byte) (s : State) : Result :=
  s.draw.2.write x (boundedDraw s.draw.1 kk)

end Sys2Proof.Machine
end

