-- ==== Sys2Proof/Machine/Control.lean ====
section
/-! DEFINITION. Control flow (41_control_flow.md). -/

namespace Sys2Proof.Machine

/-- 00EE RET (R67): on an empty stack only the default advance. -/
def execRet (s : State) : Result :=
  .next (if s.sp = 0 then s.advance else s.drop.setPc (s.top + 2))

/-- 0NNN SYS nnn (R68): a no-op. -/
def execSys (_nnn : Addr12) (s : State) : Result := .next s.advance

/-- 1NNN JP nnn (R69). -/
def execJp (nnn : Addr12) (s : State) : Result := .next (s.setPc (addressOf nnn))

/-- 2NNN CALL nnn (R72): pushes its own address; the jump is taken even when the push is dropped. -/
def execCall (nnn : Addr12) (s : State) : Result := .next ((s.push s.pc).setPc (addressOf nnn))

/-- BNNN JP V0, nnn (R71). -/
def execJpV0 (nnn : Addr12) (s : State) : Result := .next (s.setPc (jumpTarget nnn (s.reg 0)))

/-- 3XKK SE Vx, kk (R73). -/
def execSeImm (x : RegIx) (kk : Byte) (s : State) : Result := .next (s.skipIf (s.reg x == kk))

/-- 4XKK SNE Vx, kk (R74). -/
def execSneImm (x : RegIx) (kk : Byte) (s : State) : Result := .next (s.skipIf (s.reg x != kk))

/-- 5XYN SE Vx, Vy (R75). -/
def execSeReg (x y : RegIx) (_ignored : Nibble) (s : State) : Result :=
  .next (s.skipIf (s.reg x == s.reg y))

/-- 9XYN SNE Vx, Vy (R76). -/
def execSneReg (x y : RegIx) (_ignored : Nibble) (s : State) : Result :=
  .next (s.skipIf (s.reg x != s.reg y))

end Sys2Proof.Machine
end

