-- ==== Sys2Proof/Machine/Display.lean ====
section
/-! DEFINITION. The display instructions (40_display.md). Neither presents the framebuffer (rule R114 does). -/

namespace Sys2Proof.Machine

/-- 00E0 CLS (R64). -/
def execCls (s : State) : Result := .next (s.setFb blankScreen).advance

/-- DXYN's framebuffer and collision: the sprite is `n` bytes at I, the corner is at column V[x] and row
V[y] (R65). -/
def State.drawn (s : State) (x y : RegIx) (n : Nibble) : Framebuffer × Bool :=
  drawSprite (s.reg x).toNat (s.reg y).toNat (s.readBytes s.i.toNat n.toNat) (s.fb, false)

/-- DXYN DRW Vx, Vy, n (R65). -/
def execDrw (x y : RegIx) (n : Nibble) (s : State) : Result :=
  .next (((s.setFb (s.drawn x y n).1).setFlag (s.drawn x y n).2).advance)

end Sys2Proof.Machine
end

