-- ==== Sys2Proof/Machine/Index.lean ====
section
/-! DEFINITION. The index register and memory instructions (43_index_memory.md). -/

namespace Sys2Proof.Machine

/-- ANNN LD I, nnn (R91). -/
def execLdI (nnn : Addr12) (s : State) : Result := .next (s.setI (addressOf nnn)).advance

/-- FX1E ADD I, Vx (R92): on overflow I is not changed. -/
def execAddI (x : RegIx) (s : State) : Result :=
  .next
    (if indexOverflow s.i (s.reg x) then (s.setFlag true).advance
     else ((s.setI (BitVec.ofNat 16 (indexSum s.i (s.reg x)))).setFlag false).advance)

/-- FX29 LD F, Vx (R93). -/
def execLdF (x : RegIx) (s : State) : Result := .next (s.setI (glyphAddress (s.reg x))).advance

/-- FX33 LD B, Vx (R94). -/
def execLdB (x : RegIx) (s : State) : Result :=
  .next (s.writeBytes s.i.toNat (bcdDigits (s.reg x))).advance

/-- FX55 LD [I], Vx (R95). -/
def execLdMemVx (x : RegIx) (s : State) : Result :=
  .next (s.writeBytes s.i.toNat (s.regRun x)).advance

/-- FX65 LD Vx, [I] (R96). -/
def execLdVxMem (x : RegIx) (s : State) : Result :=
  .next (s.setRegs 0 (s.readBytes s.i.toNat (x.toNat + 1))).advance

end Sys2Proof.Machine
end

