-- ==== Sys2Proof/Machine/KeysTimers.lean ====
section
/-! DEFINITION. The key and timer instructions (44_keys_timers.md). -/

namespace Sys2Proof.Machine

/-- EX9E SKP Vx (R97). -/
def execSkp (x : RegIx) (s : State) : Result := .next (s.skipIf (s.key (s.keyOf x) == .pressed))

/-- EXA1 SKNP Vx (R98). -/
def execSknp (x : RegIx) (s : State) : Result := .next (s.skipIf (s.key (s.keyOf x) == .released))

/-- FX07 LD Vx, DT (R99). -/
def execLdVxDt (x : RegIx) (s : State) : Result := .next (s.setReg x s.dt).advance

/-- FX0A LD Vx, K, the issue (R102): only RUN changes; `resolveStep` completes the instruction. -/
def execLdVxK (x : RegIx) (s : State) : Result := .next (s.setRun (.waiting x))

/-- FX15 LD DT, Vx (R100). -/
def execLdDtVx (x : RegIx) (s : State) : Result := .next (s.setDt (s.reg x)).advance

/-- FX18 LD ST, Vx (R101). -/
def execLdStVx (x : RegIx) (s : State) : Result := .next (s.setSt (s.reg x)).advance

end Sys2Proof.Machine
end

