-- ==== Sys2Proof/Machine/Noop.lean ====
section
/-! DEFINITION. The unassigned encodings of classes 8, E and F: no-ops (45_noop_space.md rule R103). -/

namespace Sys2Proof.Machine

/-- 8XY{8-D,F} (R103). -/
def execNop8 (_x _y : RegIx) (_s : Nibble) (s : State) : Result := .next s.advance

/-- EX, any other low byte (R103). -/
def execNopE (_x : RegIx) (_s : Byte) (s : State) : Result := .next s.advance

/-- FX, any other low byte (R103). -/
def execNopF (_x : RegIx) (_s : Byte) (s : State) : Result := .next s.advance

end Sys2Proof.Machine
end

