-- ==== Sys2Proof/Machine/Loop.lean ====
section
/-! DEFINITION. The pacing loop: the four transitions of 60_exceptions.md rule R110. -/

namespace Sys2Proof.Machine

/-- A poll that reports nothing. -/
def quietPoll : PollAnswer where
  transitions := []
  halt := false

/-- The next answer of `Poll()`, and the ones after it. DESIGN CHOICE (log entry 4): when the list is used up
the collaborator has nothing to report. -/
def State.nextPoll (s : State) : PollAnswer × List PollAnswer :=
  match s.polls with
  | [] => (quietPoll, [])
  | a :: rest => (a, rest)

/-- The transitions of a poll, applied in the order delivered (R113). -/
def State.applyKeys (s : State) (events : List KeyEvent) : State :=
  events.foldl (fun t e => t.setKey e.key e.value) s

/-- SLOT as R28 defines it, the number of instructions completed in the current frame's batch: 0 while the
frame's poll is the next step, and the loop's counter once the batch is open. DEDUCED (log entry 16): the counter
`slot` itself moves exactly as R110 writes it, so after a frame's end, and after a poll that halts, it still
holds the count of the frame that ended. -/
def State.batchCount (s : State) : Nat :=
  match s.phase with
  | .atPoll => 0
  | .inBatch => s.slot

/-- PollStep (R110): a halt discards the transitions (R107) and changes nothing but RUN; a poll without one sets
SLOT to 0 and opens the batch. After either, no instruction of the batch is completed (R28, `batchCount`). -/
def pollStep (s : State) : State :=
  if s.nextPoll.1.halt then { s with run := .halted, polls := s.nextPoll.2 }
  else
    { s.applyKeys s.nextPoll.1.transitions with
      slot := 0
      phase := .inBatch
      polls := s.nextPoll.2 }

/-- What the loop does after an instruction: a completed one counts as a slot, a waiting one does not
(R110). -/
def State.retire (s : State) : State :=
  match s.run with
  | .waiting _ => s
  | .running => { s with slot := s.slot + 1 }
  | .halted => { s with slot := s.slot + 1 }

/-- InstrStep (R110): fetch, decode, execute. -/
def instrStep (s : State) : Result :=
  match exec (decode s.fetch) s with
  | .next t => .next t.retire
  | .fault r => .fault r
  | .refused r => .refused r

/-- ResolveStep (R102, R110). Without an answer the machine goes on waiting (log entry 5). -/
def resolveStep (x : RegIx) (s : State) : State :=
  match s.waits with
  | [] => s
  | .keyReceived k :: rest =>
    { ((s.setReg x (keyByte k)).setKey k .pressed).advance with
      run := .running
      slot := s.slot + 1
      waits := rest }
  | .halt :: rest => { s with run := .halted, waits := rest }

/-- One tick of a timer: down by one, saturating at zero (R111). -/
def tick (b : Byte) : Byte := if b = 0 then 0 else b - 1

/-- FrameEndStep (R110): present the framebuffer (R114), then tick both timers (R111). -/
def frameEndStep (s : State) : State :=
  { s with
    display := some s.fb
    presents := s.presents + 1
    dt := tick s.dt
    st := tick s.st
    phase := .atPoll }

/-- One transition of the machine, by the guards of R110. A halted machine keeps its state (R115, log entry
7); no step is enabled with SLOT above IPF (log entry 8). -/
def loopStep (s : State) : Result :=
  match s.run with
  | .halted => .next s
  | .waiting x => .next (resolveStep x s)
  | .running =>
    match s.phase with
    | .atPoll => .next (pollStep s)
    | .inBatch =>
      if s.slot < s.cfg.ipf then instrStep s
      else if s.slot = s.cfg.ipf then .next (frameEndStep s)
      else .fault .slotBeyondBatch

end Sys2Proof.Machine
end

