-- ==== Sys2Proof/Machine/Boot.lean ====
section
/-! DEFINITION. Boot (70_reset_and_hazards.md rules R122, R123): how a program image comes to stand in memory
(log entry 3), and how boot fails. -/

namespace Sys2Proof.Machine

/-- PROGRAM_START (R5). -/
def programStart : Nat := 0x200

/-- Step 3 of R122: the image at 0x200, truncated to the memory that is left. -/
def State.loadProgram (s : State) (program : List Byte) : State :=
  s.writeBytes programStart (program.take (s.cfg.memSize - programStart))

/-- The state after a successful boot, for every choice of the parameters (R122). -/
def boot (cfg : Config) (program : List Byte) : State :=
  { State.reset with cfg := cfg }.loadProgram program

/-- What the loader could not read. -/
inductive BootItem where
  | font
  | program
  deriving DecidableEq, Repr

/-- The one error of boot (R105). It is no fault of the machine, which never runs. -/
inductive BootError where
  | fatalLoadError (item : BootItem)
  deriving DecidableEq, Repr

/-- A font file's bytes as the parameter FONT: exactly 80 bytes, else it is unreadable (R123). -/
def fontOfFile (file : List Byte) : Option (Vector Byte 80) :=
  if h : file.length = 80 then some ⟨file.toArray, by simpa using h⟩ else none

/-- Boot from files, `none` for one that cannot be read: the font first, then the program (R122, R123). The
parameters but the font are those of `cfg`. -/
def bootFrom (cfg : Config) (font program : Option (List Byte)) : Except BootError State :=
  match font.bind fontOfFile, program with
  | none, _ => .error (.fatalLoadError .font)
  | some _, none => .error (.fatalLoadError .program)
  | some f, some image => .ok (boot { cfg with font := f } image)

end Sys2Proof.Machine
end

