-- ==== Sys2Proof/Machine/Step.lean ====
section
/-! DEFINITION. The step function, and the state whose next step runs a given word. -/

namespace Sys2Proof.Machine

/-- One step of the machine (60_exceptions.md rule R110). -/
def step (s : State) : Host.Outcome State Fault Refusal := loopStep s

/-- `s` with a word where the next instruction is fetched, inside a batch that has a slot left, so that the
next step runs it (log entry 3). -/
def State.withFetchWord (s : State) (nbits w : Nat) : State :=
  { s.writeBytes s.pc.toNat (tableBytes nbits w) with run := .running, phase := .inBatch, slot := 0 }

end Sys2Proof.Machine
end

