-- ==== Sys2Proof/Safety.lean ====
section
/-! DEFINITION. What a safe run is, and the words the statements use: frames, the machine's invariant, and
what a run completes. -/

namespace Sys2Proof

/-! ## What an instruction may write (R16, R30) -/

/-- The instruction names register `r` as a destination. -/
def Instr.names (r : RegIx) : Instr → Prop
  | .ldImm x _ | .addImm x _ | .mov x _ | .orReg x _ | .andReg x _ | .xorReg x _ | .addReg x _
  | .subReg x _ | .shr x _ | .subn x _ | .shl x _ | .rnd x _ | .ldVxDt x => r = x
  | .ldVxMem x => r.toNat ≤ x.toNat
  | .cls | .ret | .sys _ | .jp _ | .call _ | .seImm _ _ | .sneImm _ _ | .seReg _ _ _ | .nop8 _ _ _
  | .sneReg _ _ _ | .ldI _ | .jpV0 _ | .drw _ _ _ | .skp _ | .sknp _ | .nopE _ _ | .ldVxK _ | .ldDtVx _
  | .ldStVx _ | .addI _ | .ldF _ | .ldB _ | .ldMemVx _ | .nopF _ _ => False

/-- The instruction writes VF as a flag: exactly the seven of rule R16. -/
def Instr.writesFlag : Instr → Prop
  | .addReg _ _ | .subReg _ _ | .shr _ _ | .subn _ _ | .shl _ _ | .drw _ _ _ | .addI _ => True
  | .cls | .ret | .sys _ | .jp _ | .call _ | .seImm _ _ | .sneImm _ _ | .seReg _ _ _ | .ldImm _ _
  | .addImm _ _ | .mov _ _ | .orReg _ _ | .andReg _ _ | .xorReg _ _ | .nop8 _ _ _ | .sneReg _ _ _
  | .ldI _ | .jpV0 _ | .rnd _ _ | .skp _ | .sknp _ | .nopE _ _ | .ldVxDt _ | .ldVxK _ | .ldDtVx _
  | .ldStVx _ | .ldF _ | .ldB _ | .ldMemVx _ | .ldVxMem _ | .nopF _ _ => False

end Sys2Proof

namespace Sys2Proof.Machine

/-! ## Frames: what stays as it is -/

/-- The parts of the state, the program counter apart. -/
inductive Part where
  /-- V0..VF. -/
  | regs
  /-- I. -/
  | index
  /-- STACK and SP. -/
  | stack
  /-- DT. -/
  | delay
  /-- ST. -/
  | sound
  /-- KEY. -/
  | keys
  /-- FB. -/
  | screen
  /-- Every byte of memory. -/
  | memory
  /-- RUN. -/
  | control
  /-- PHASE and SLOT. -/
  | loop
  /-- MEM_SIZE, IPF and FONT. -/
  | parameters
  /-- The coming answers of the input collaborator. -/
  | input
  /-- The number of random draws made. -/
  | random
  /-- What the display was given. -/
  | output
  deriving DecidableEq, Repr

/-- A part reads in `t` as it reads in `s`. Memory is compared byte by byte, at every address. -/
def Part.same (s t : State) : Part → Prop
  | .regs => ∀ r, t.reg r = s.reg r
  | .index => t.i = s.i
  | .stack => (∀ j, t.stackAt j = s.stackAt j) ∧ t.sp = s.sp
  | .delay => t.dt = s.dt
  | .sound => t.st = s.st
  | .keys => ∀ k, t.key k = s.key k
  | .screen => ∀ row col, Framebuffer.pixel t.fb row col = Framebuffer.pixel s.fb row col
  | .memory => ∀ a, t.readByte a = s.readByte a
  | .control => t.run = s.run
  | .loop => t.phase = s.phase ∧ t.slot = s.slot
  | .parameters => t.cfg = s.cfg
  | .input => t.polls = s.polls ∧ t.waits = s.waits
  | .random => t.draws = s.draws
  | .output => t.display = s.display ∧ t.presents = s.presents

/-- Every part but those listed is unchanged. -/
def SameBut (parts : List Part) (s t : State) : Prop := ∀ p, p ∉ parts → p.same s t

/-- Every register but those listed is unchanged. -/
def RegsBut (xs : List RegIx) (s t : State) : Prop := ∀ r, r ∉ xs → t.reg r = s.reg r

/-- Every byte of memory is unchanged but the `n` bytes from address `a` upward, each address reduced
modulo MEM_SIZE (R33). -/
def MemoryBut (a n : Nat) (s t : State) : Prop :=
  ∀ b, (∀ k, k < n → b % s.cfg.memSize ≠ (a + k) % s.cfg.memSize) → t.readByte b = s.readByte b

/-! ## The sprite of DXYN in closed form (R65) -/

/-- How far a coordinate lies after the sprite's corner, around an edge of length `size`. -/
def offsetFrom (size corner at_ : Nat) : Nat := (at_ + (size - corner % size)) % size

/-- The sprite of DXYN has a bit 1 on this pixel. -/
def State.spriteBit (s : State) (x y : RegIx) (n : Nibble) (row : Fin 32) (col : Fin 64) : Bool :=
  let dr := offsetFrom 32 (s.reg y).toNat row.val
  let dc := offsetFrom 64 (s.reg x).toNat col.val
  decide (dr < n.toNat) && decide (dc < 8) && (s.readByte (s.i.toNat + dr)).getLsbD (7 - dc)

/-! ## The invariant -/

/-- What every state reached from boot satisfies: the memory's canonical form, I within 12 bits (R18), SLOT
within the batch (R28), and a wait only inside a batch, at the FX0A it belongs to (R27). -/
def State.Inv (s : State) : Prop :=
  Memory.wf s.cfg s.mem ∧ s.i.toNat ≤ 0xFFF ∧ s.slot ≤ s.cfg.ipf ∧
    ∀ x, s.run = .waiting x → s.phase = .inBatch ∧ s.slot < s.cfg.ipf ∧ decode s.fetch = .ldVxK x

/-- `n` steps, stopping at the first fault or refusal. -/
def runSteps : Nat → State → Result
  | 0, s => .next s
  | n + 1, s =>
    match step s with
    | .next t => runSteps n t
    | .fault r => .fault r
    | .refused r => .refused r

/-- A safe run: it never stops with a fault or a refusal. -/
def Safe (s : State) : Prop := ∀ n, ∃ t, runSteps n s = .next t

/-! ## What a run completes (R112) -/

/-- FrameEndStep is the enabled transition (R110). -/
def State.atFrameEnd (s : State) : Prop := s.run = .running ∧ s.phase = .inBatch ∧ s.slot = s.cfg.ipf

/-- How many instructions a step from `s` to `t` completes: an InstrStep or a ResolveStep after which the
machine runs. -/
def completedBy (s t : State) : Nat :=
  match s.run, t.run with
  | .running, .running => if s.phase = .inBatch ∧ s.slot < s.cfg.ipf then 1 else 0
  | .waiting _, .running => 1
  | _, _ => 0

/-- How many instructions `n` steps complete. -/
def completedIn : Nat → State → Nat
  | 0, _ => 0
  | n + 1, s =>
    match step s with
    | .next t => completedBy s t + completedIn n t
    | .fault _ => 0
    | .refused _ => 0

/-- None of the next `n` steps ends a frame. -/
def NoFrameEnd : Nat → State → Prop
  | 0, _ => True
  | n + 1, s => ¬ s.atFrameEnd ∧ ∀ t, step s = .next t → NoFrameEnd n t

/-! ## Isolation -/

/-- An outcome with the sound timer masked. -/
def Result.withoutSound : Result → Result
  | .next t => .next { t with st := 0 }
  | .fault r => .fault r
  | .refused r => .refused r

/-- An outcome with the loop's hidden state replaced. -/
def Result.withLoop (p : Phase) (n : Nat) : Result → Result
  | .next t => .next { t with phase := p, slot := n }
  | .fault r => .fault r
  | .refused r => .refused r

end Sys2Proof.Machine
end

