-- ==== Sys2Proof/Certificates/Slice0/Obligations.lean ====
section
/-! DEFINITION. The statements for the provers. Each docstring names the rules of spec/ it formalises; where a
clause rests on a decision the spec marks as its own (92_eei_decisions.md) or on a choice of the model (a log
entry), the docstring says so. -/

open Sys2Proof Sys2Proof.Machine

/-! ## Encoding -/

/-- Decoding the word of a well-formed instruction gives the instruction back, with every operand at every
value (30_encoding.md R52, R56, R57, R59). -/
def Obligations.DecodeOfEncodeIsIdentity : Prop :=
  ∀ i : Instr, WellFormed i → decode (encode i) = i

/-- R49, R56: every one of the 65,536 words decodes to exactly one row (which bits the secondary dispatch
compares is the spec's decisions D6, D7, D8: log entry 14). That the decoded instruction encodes to the word, so
that no bit is lost, is the model's choice: its terms keep the fields that an instruction ignores (log entry
13). -/
def Obligations.EveryWordIsOneRow : Prop :=
  ∀ w : Word, WellFormed (decode w) ∧ encode (decode w) = w ∧
    ∃ r ∈ opcodeMap, r.number = (decode w).rowNumber ∧
      ∀ r' ∈ opcodeMap, r'.number = (decode w).rowNumber → r' = r

/-- R56, R57: the row a word decodes to matches the word, and every other matching row has fewer mask bits.
(R57 and the class-0, 8, E and F dispatch are marked by the spec as its own: D6, D7, D8.) -/
def Obligations.DecodeTakesMostSpecificRow : Prop :=
  ∀ w : Word, ∃ r ∈ opcodeMap, r.number = (decode w).rowNumber ∧ r.matches w = true ∧
    ∀ r' ∈ opcodeMap, r'.matches w = true → r' = r ∨ r'.maskBits < r.maskBits

/-- R50, R51: the four nibbles make up the word, and the secondary fields are their concatenations. -/
def Obligations.FieldsAreNibbleConcatenations : Prop :=
  ∀ a b c d : Nibble,
    n0 (a ++ b ++ c ++ d : Word) = a ∧ n1 (a ++ b ++ c ++ d : Word) = b ∧
    n2 (a ++ b ++ c ++ d : Word) = c ∧ n3 (a ++ b ++ c ++ d : Word) = d ∧
    kkField (a ++ b ++ c ++ d : Word) = c ++ d ∧ nnnField (a ++ b ++ c ++ d : Word) = b ++ c ++ d

/-- Words of 95_test_vectors.md B1 decode as listed there. That 01E0 is SYS is the spec's decision D6, the rows
of the 8ABx words D8, the rows of the E and F words D7 (log entry 14); the fields kept in `seReg`, `shl`, `nop8`,
`nopE` and `nopF` are the model's choice (log entry 13). -/
def Obligations.SampleWordsDecodeAsListed : Prop :=
  decode 0x00E0 = .cls ∧ decode 0x00EE = .ret ∧ decode 0x01E0 = .sys 0x1E0 ∧ decode 0x10EE = .jp 0x0EE ∧
  decode 0x5121 = .seReg 1 2 1 ∧ decode 0x8AB4 = .addReg 0xA 0xB ∧ decode 0x8AB8 = .nop8 0xA 0xB 8 ∧
  decode 0x8ABE = .shl 0xA 0xB ∧ decode 0xD123 = .drw 1 2 3 ∧ decode 0xE19E = .skp 1 ∧
  decode 0xE19F = .nopE 1 0x9F ∧ decode 0xF165 = .ldVxMem 1 ∧ decode 0xF175 = .nopF 1 0x75

/-! ## Steps and whole-machine rules -/

/-- R110 InstrStep, R36: inside a batch with a slot left, a step is exec of the instruction that the two
bytes at the program counter decode to, the byte at the lower address being the high half; if the machine
still runs afterwards, one more slot is used. (Big-endian fetch is the spec's decision D3, the reduction of
fetch addresses D2; that pc + 1 is not cut to 16 bits first is log entry 9.) -/
def Obligations.StepRunsTheDecodedInstruction : Prop :=
  ∀ (s : State) (i : Instr), s.run = .running → s.phase = .inBatch → s.slot < s.cfg.ipf →
    decode (s.readByte s.pc.toNat ++ s.readByte (s.pc.toNat + 1)) = i →
    step s =
      match exec i s with
      | .next t => .next (if t.run = .running then { t with slot := t.slot + 1 } else t)
      | .fault r => .fault r
      | .refused r => .refused r

/-- R10, R104: no instruction fails; in every state each one answers a next state. -/
def Obligations.NoInstructionFails : Prop :=
  ∀ (i : Instr) (s : State), ∃ t, exec i s = .next t

/-- The invariant holds after boot, whatever the parameters and the program image (R122), and at reset. -/
def Obligations.InvariantHoldsAfterBoot : Prop :=
  State.Inv State.reset ∧ ∀ (cfg : Config) (program : List Byte), State.Inv (boot cfg program)

/-- From every state that meets the invariant, a step gives a state that meets it: the memory keeps its
canonical form, I stays within 12 bits (R18), SLOT within 0..IPF (R28), and a wait stays at its FX0A inside
a batch (R27). -/
def Obligations.StepKeepsInvariant : Prop :=
  ∀ s t : State, s.Inv → step s = .next t → t.Inv

/-- R104, R105, R115: a run from a state that meets the invariant never stops with a fault or a refusal, so
no run from boot does. (That a halted or an unanswered waiting machine answers its own state is log entries
5 and 7.) -/
def Obligations.RunsFromInvariantNeverStop : Prop :=
  (∀ s : State, s.Inv → Safe s) ∧ ∀ (cfg : Config) (program : List Byte), Safe (boot cfg program)

/-- R18: I is within 12 bits after reset and every instruction keeps it there. -/
def Obligations.IndexStaysTwelveBits : Prop :=
  State.reset.i.toNat ≤ 0xFFF ∧
    ∀ (i : Instr) (s t : State), s.i.toNat ≤ 0xFFF → exec i s = .next t → t.i.toNat ≤ 0xFFF

/-- R110: outside its enabled transitions the machine has no step: with SLOT above IPF, which R28 excludes, a
running machine inside a batch stops with the named fault (log entry 8). -/
def Obligations.SlotBeyondBatchStops : Prop :=
  ∀ s : State, s.run = .running → s.phase = .inBatch → s.cfg.ipf < s.slot →
    step s = .fault .slotBeyondBatch

/-- R17, R20 to R25, R27, R28, R35: which instructions write which part of the state besides V and pc. That
FX55 and FX65 keep I is the spec's decision D13, that RET keeps STACK D19, the pairing of FX15 with DT and FX18
with ST D11 (log entry 14); the draw counter is the model's own (log entry 6). KEY is untouched by exec: FX0A
marks its key when the wait ends, which is a step of the loop (KeyWaitIssuesAndResolves). -/
def Obligations.OnlyTheNamedInstructionsWriteEachPart : Prop :=
  ∀ (i : Instr) (s t : State), exec i s = .next t →
    (t.i ≠ s.i → (∃ nnn, i = .ldI nnn) ∨ (∃ x, i = .addI x) ∨ ∃ x, i = .ldF x) ∧
    ((∃ j, t.stackAt j ≠ s.stackAt j) → ∃ nnn, i = .call nnn) ∧
    (t.sp ≠ s.sp → (∃ nnn, i = .call nnn) ∨ i = .ret) ∧
    (t.dt ≠ s.dt → ∃ x, i = .ldDtVx x) ∧
    (t.st ≠ s.st → ∃ x, i = .ldStVx x) ∧
    (t.fb ≠ s.fb → i = .cls ∨ ∃ x y n, i = .drw x y n) ∧
    ((∃ a, t.readByte a ≠ s.readByte a) → (∃ x, i = .ldB x) ∨ ∃ x, i = .ldMemVx x) ∧
    (t.run ≠ s.run → ∃ x, i = .ldVxK x) ∧
    (t.draws ≠ s.draws → ∃ x kk, i = .rnd x kk) ∧
    t.keys = s.keys ∧ t.phase = s.phase ∧ t.slot = s.slot ∧ t.cfg = s.cfg ∧ t.polls = s.polls ∧
    t.waits = s.waits ∧ t.display = s.display ∧ t.presents = s.presents

/-- R16: an instruction changes a register only as its named destination, or VF as a flag, and only the
seven instructions listed write VF as a flag. -/
def Obligations.RegistersChangeOnlyAsDestinationOrFlag : Prop :=
  ∀ (i : Instr) (s t : State), exec i s = .next t →
    ∀ r, t.reg r ≠ s.reg r → i.names r ∨ (r = 0xF#4 ∧ i.writesFlag)

/-- R28: "two pieces of hidden state that no instruction reads": PHASE and SLOT. -/
def Obligations.InstructionsDoNotReadPhaseOrSlot : Prop :=
  ∀ (i : Instr) (s : State) (p : Phase) (n : Nat),
    exec i { s with phase := p, slot := n } = Result.withLoop p n (exec i s)

/-- R23, R29: no instruction reads ST and nothing else depends on it (that it drives no output is the spec's
decision D27): two runs that differ in ST alone differ
in ST alone after any number of steps. -/
def Obligations.SoundTimerInfluencesNothing : Prop :=
  ∀ (n : Nat) (s : State) (b : Byte),
    Result.withoutSound (runSteps n { s with st := b }) = Result.withoutSound (runSteps n s)

/-- R130, R106: KEY changes only at a poll or when a wait ends; DT changes only by FX15 (the pairing is the
spec's decision D11) or at a frame end. -/
def Obligations.KeysAndDelayChangeOnlyWhereStated : Prop :=
  ∀ s t : State, step s = .next t →
    (t.keys ≠ s.keys → (s.run = .running ∧ s.phase = .atPoll) ∨ ∃ x, s.run = .waiting x) ∧
    (t.dt ≠ s.dt → s.run = .running ∧ s.phase = .inBatch ∧
      (s.slot = s.cfg.ipf ∨ ∃ x, decode s.fetch = .ldDtVx x))

/-- R120, R115: Halted is entered only from a poll or a wait that a halt request answers; Waiting only by
FX0A, for its register. -/
def Obligations.WaitAndHaltAreEnteredOnlyWhereStated : Prop :=
  ∀ s t : State, step s = .next t →
    (t.run = .halted → s.run = .halted ∨
      (s.run = .running ∧ s.phase = .atPoll ∧ ∃ a rest, s.polls = a :: rest ∧ a.halt = true) ∨
      ((∃ x, s.run = .waiting x) ∧ ∃ rest, s.waits = .halt :: rest)) ∧
    (∀ x, t.run = .waiting x → s.run = .waiting x ∨
      (s.run = .running ∧ s.phase = .inBatch ∧ s.slot < s.cfg.ipf ∧ decode s.fetch = .ldVxK x))

/-- R112 (the ratio is the spec's decision D24; that a step of an unanswered wait changes and completes nothing
is log entry 5): exactly IPF instructions complete between two consecutive ticks. From a running machine at a poll,
if none of `n` steps ends a frame and the step after them does, those `n` steps complete IPF instructions;
steps of a wait that nothing answers complete none. -/
def Obligations.FrameCompletesExactlyIpfInstructions : Prop :=
  ∀ (n : Nat) (s t : State), s.run = .running → s.phase = .atPoll → NoFrameEnd n s →
    runSteps n s = .next t → t.atFrameEnd → completedIn n s = t.cfg.ipf

/-! ## The pacing loop -/

/-- R113, R107 (the order of transitions and the halt's precedence are the spec's decision D23): a poll that
asks for a halt halts and applies no transition; any other applies the transitions in order, a later one for
the same key replacing an earlier one, and opens the batch. A halting poll changes nothing but RUN (R110),
and after every poll, halting or not, the count of the current frame's batch, R28's definition of SLOT, is 0
(SlotIsZeroAtEveryPoll, log entry 16). -/
def Obligations.PollAppliesTransitionsOrHalts : Prop :=
  ∀ (s : State) (a : PollAnswer) (rest : List PollAnswer),
    s.run = .running → s.phase = .atPoll → s.polls = a :: rest →
    ∃ t, step s = .next t ∧ t.pc = s.pc ∧ t.polls = rest ∧ t.waits = s.waits ∧ t.batchCount = 0 ∧
      (s.slot = 0 → t.slot = 0) ∧
      (a.halt = true → t.run = .halted ∧ SameBut [.control, .input] s t) ∧
      (a.halt = false → t.phase = .inBatch ∧ t.slot = 0 ∧ SameBut [.keys, .loop, .input] s t ∧
        ∀ k, t.key k = ((a.transitions.reverse.find? fun e => e.key = k).map KeyEvent.value).getD (s.key k))

/-- R111, R114: at a frame end each timer that is non-zero goes down by exactly 1 and each that is zero stays
zero; the framebuffer is presented once, as it stands, and not changed; the next step polls. (That the
presentation is recorded in the state is log entry 11; that the counter of R110 is
kept while R28's count of the current frame's batch is 0 again is log entry 16.) -/
def Obligations.FrameEndPresentsAndTicks : Prop :=
  ∀ s : State, s.run = .running → s.phase = .inBatch → s.slot = s.cfg.ipf →
    ∃ t, step s = .next t ∧ t.pc = s.pc ∧
      (0 < s.dt.toNat → t.dt.toNat + 1 = s.dt.toNat) ∧ (s.dt.toNat = 0 → t.dt.toNat = 0) ∧
      (0 < s.st.toNat → t.st.toNat + 1 = s.st.toNat) ∧ (s.st.toNat = 0 → t.st.toNat = 0) ∧
      t.display = some s.fb ∧ t.presents = s.presents + 1 ∧ t.phase = .atPoll ∧ t.slot = s.slot ∧ t.batchCount = 0 ∧
      SameBut [.delay, .sound, .loop, .output] s t

/-- R102 (the events during a wait are the spec's decision D22, the class-F dispatch D7): FX0A only sets RUN
to Waiting; a waiting machine answers a key by storing it in V[x], marking it pressed and completing the
instruction, a halt by halting with nothing else changed, and no answer by staying as it is (log entry 5). -/
def Obligations.KeyWaitIssuesAndResolves : Prop :=
  ∀ x : RegIx, decode (0xF#4 ++ x ++ 0x0A#8) = .ldVxK x ∧
    (∀ s, ∃ t, exec (.ldVxK x) s = .next t ∧ t.run = .waiting x ∧ t.pc = s.pc ∧ SameBut [.control] s t) ∧
    ∀ s, s.run = .waiting x →
      (s.waits = [] → step s = .next s) ∧
      (∀ k rest, s.waits = .keyReceived k :: rest → ∃ t, step s = .next t ∧
        (t.reg x).toNat = k.toNat ∧ t.key k = .pressed ∧ (∀ k', k' ≠ k → t.key k' = s.key k') ∧
        t.run = .running ∧ t.pc = s.pc + 2 ∧ t.phase = s.phase ∧ t.slot = s.slot + 1 ∧
        t.waits = rest ∧ t.polls = s.polls ∧ RegsBut [x] s t ∧
        SameBut [.regs, .keys, .control, .loop, .input] s t) ∧
      (∀ rest, s.waits = .halt :: rest → ∃ t, step s = .next t ∧ t.run = .halted ∧ t.pc = s.pc ∧
        t.waits = rest ∧ t.polls = s.polls ∧ SameBut [.control, .input] s t)

/-- R115, R110: from Halted no state changes, however many steps are asked for (that a step answers the same
state is log entry 7). -/
def Obligations.HaltedKeepsTheFinalState : Prop :=
  ∀ (n : Nat) (s : State), s.run = .halted → runSteps n s = .next s

/-! ## Boot and memory -/

/-- R122, R15, R17, R19 to R28 (the zeros of I, DT, ST, FB and unloaded memory are the spec's decision D20):
the state after boot, for every choice of the parameters. -/
def Obligations.BootLeavesTheStatedState : Prop :=
  ∀ (cfg : Config) (program : List Byte),
    (∀ r, (boot cfg program).reg r = 0) ∧ (boot cfg program).i = 0 ∧ (boot cfg program).pc = 0x200 ∧
    (∀ j, (boot cfg program).stackAt j = 0) ∧ (boot cfg program).sp = 0 ∧
    (boot cfg program).dt = 0 ∧ (boot cfg program).st = 0 ∧
    (∀ k, (boot cfg program).key k = .released) ∧
    (∀ row col, Framebuffer.pixel (boot cfg program).fb row col = false) ∧
    (boot cfg program).run = .running ∧ (boot cfg program).phase = .atPoll ∧ (boot cfg program).slot = 0 ∧
    (boot cfg program).cfg = cfg ∧
    (∀ j, (h : j < 80) → (boot cfg program).readByte j = cfg.font[j]) ∧
    (∀ j, (h : j < program.length) → 0x200 + j < cfg.memSize →
      (boot cfg program).readByte (0x200 + j) = program[j]) ∧
    (∀ a, a < cfg.memSize → 80 ≤ a → (a < 0x200 ∨ 0x200 + program.length ≤ a) →
      (boot cfg program).readByte a = 0)

/-- R123, R105 (that a font of another length is unreadable is the spec's decision D35): boot fails exactly
when the font or the program cannot be read or the font is not 80 bytes, and a program of any length loads. -/
def Obligations.BootFailsOnlyOnUnreadableFiles : Prop :=
  ∀ (cfg : Config) (font program : Option (List Byte)),
    ((∃ s, bootFrom cfg font program = .ok s) ↔ (∃ f, font = some f ∧ f.length = 80) ∧ ∃ p, program = some p) ∧
    ∀ f p, font = some f → program = some p → f.length = 80 →
      ∃ v : Vector Byte 80, v.toList = f ∧ bootFrom cfg font program = .ok (boot { cfg with font := v } p)

/-- R125: the first step after boot is a poll; a halt it delivers ends the run before any instruction
executes. SLOT is 0 after it. (A poll that reports nothing stands for an
empty list of answers: log entry 4.) -/
def Obligations.FirstStepAfterBootPolls : Prop :=
  ∀ (cfg : Config) (program : List Byte) (a : PollAnswer) (rest : List PollAnswer),
    ∃ t, step { boot cfg program with polls := a :: rest } = .next t ∧ t.pc = 0x200 ∧
      t.run = (if a.halt then .halted else .running) ∧ t.slot = 0 ∧
      SameBut [.control, .keys, .loop, .input] (boot cfg program) t

/-- R33 (the reduction is the spec's decision D2): a byte read after a byte written is the byte written
exactly when the addresses agree modulo MEM_SIZE, and what was there before otherwise. -/
def Obligations.ReadAfterWrite : Prop :=
  ∀ (s : State) (a b : Nat) (v : Byte),
    (s.writeByte a v).readByte b =
      if b % s.cfg.memSize = a % s.cfg.memSize then v else s.readByte b

/-- Two memories in canonical form that read the same at every address are the same data (log entry 10). -/
def Obligations.CanonicalMemoriesThatReadAlikeAreEqual : Prop :=
  ∀ (cfg : Config) (m m' : Memory), Memory.wf cfg m → Memory.wf cfg m' →
    (∀ a, a < cfg.memSize → Memory.read cfg m a = Memory.read cfg m' a) → m = m'

/-- R45, R127, R36: the very next fetch of two bytes that FX55 stored gives the word stored (big-endian:
the spec's decision D3). -/
def Obligations.FetchSeesStoredRegisters : Prop :=
  ∀ (s : State) (x k : RegIx), k.toNat < x.toNat → s.i.toNat ≤ 0xFFF →
    ∃ t, exec (.ldMemVx x) s = .next t ∧
      (t.setPc (s.i + k.zeroExtend 16)).fetch = s.reg k ++ s.reg (k + 1)

/-! ## Display -/

/-- R64 (that 00E0 is the only word of CLS is the spec's decision D6, R54; that CLS issues no display call
D30). -/
def Obligations.ClearScreenClearsEveryPixel : Prop :=
  (∀ w : Word, decode w = .cls ↔ w = 0x00E0) ∧
    ∀ s, ∃ t, exec .cls s = .next t ∧ t.pc = s.pc + 2 ∧
      (∀ row col, Framebuffer.pixel t.fb row col = false) ∧ SameBut [.screen] s t

/-- R65 (bit 7 leftmost is the spec's decision D16): every pixel is XORed with the sprite's bit on it, with
wraparound; VF says whether a sprite bit 1 fell on a set pixel; the coordinates are read before VF is
written; nothing else changes. -/
def Obligations.DrawXorsSpriteAndFlagsCollision : Prop :=
  ∀ (x y : RegIx) (n : Nibble), decode (0xD#4 ++ x ++ y ++ n) = .drw x y n ∧
    ∀ s, ∃ t, exec (.drw x y n) s = .next t ∧ t.pc = s.pc + 2 ∧
      (∀ row col, Framebuffer.pixel t.fb row col =
        (Framebuffer.pixel s.fb row col).xor (s.spriteBit x y n row col)) ∧
      (t.reg 0xF#4 = 1 ∨ t.reg 0xF#4 = 0) ∧
      (t.reg 0xF#4 = 1 ↔
        ∃ row col, s.spriteBit x y n row col = true ∧ Framebuffer.pixel s.fb row col = true) ∧
      RegsBut [0xF#4] s t ∧ SameBut [.regs, .screen] s t

/-- R65 and source property W6: drawing the same sprite again at the same place restores the framebuffer, and
the second draw reports a collision exactly when the first one set some pixel. The place is the same when the
coordinate registers still read the same (the first draw writes VF). R65's closing sentence says the second VF
is 1 exactly when the sprite has a bit 1; R65's pseudocode and W6 give that only where the sprite's pixels were
clear before the first draw, and they are followed (log entry 15). -/
def Obligations.DrawingTwiceRestoresTheScreen : Prop :=
  ∀ (x y : RegIx) (n : Nibble) (s t : State), exec (.drw x y n) s = .next t →
    t.reg x = s.reg x → t.reg y = s.reg y →
    ∃ u, exec (.drw x y n) t = .next u ∧
      (∀ row col, Framebuffer.pixel u.fb row col = Framebuffer.pixel s.fb row col) ∧
      (u.reg 0xF#4 = 1 ↔
        ∃ row col, s.spriteBit x y n row col = true ∧ Framebuffer.pixel s.fb row col = false)

/-! ## Control flow -/

/-- R67 (that 00EE alone is RET is the spec's decision D6, R54; the return to the pushed address plus 2 is the spec's decision D18, the kept entry D19): RET pops
and resumes after the CALL; on an empty stack it only advances. -/
def Obligations.ReturnPopsOrIsNoOp : Prop :=
  (∀ w : Word, decode w = .ret ↔ w = 0x00EE) ∧
    ∀ s, ∃ t, exec .ret s = .next t ∧
      (s.sp.val = 0 → t.pc = s.pc + 2 ∧ t.sp.val = 0) ∧
      (∀ j : Fin 16, s.sp.val = j.val + 1 → t.sp.val = j.val ∧ t.pc = s.stackAt j + 2) ∧
      (∀ j, t.stackAt j = s.stackAt j) ∧ SameBut [.stack] s t

/-- R72 (the jump on a full stack is the spec's decision D17, the pushed value D18): CALL pushes its own
address unless the stack is full, and jumps in both cases. -/
def Obligations.CallPushesUnlessFullAndJumps : Prop :=
  ∀ nnn : Addr12, decode (0x2#4 ++ nnn) = .call nnn ∧
    ∀ s, ∃ t, exec (.call nnn) s = .next t ∧ t.pc.toNat = nnn.toNat ∧
      (s.sp.val < 16 → t.sp.val = s.sp.val + 1 ∧
        ∀ j : Fin 16, t.stackAt j = if j.val = s.sp.val then s.pc else s.stackAt j) ∧
      (s.sp.val = 16 → t.sp = s.sp ∧ ∀ j, t.stackAt j = s.stackAt j) ∧
      SameBut [.stack] s t

/-- Source property W7, R67, R72 (decision D18): CALL and then RET, wherever it stands, returns to the
instruction after the CALL, if the stack was not full. -/
def Obligations.CallThenReturnResumesAfterCall : Prop :=
  ∀ (nnn : Addr12) (s : State) (p : Word), s.sp.val < 16 →
    ∃ t u, exec (.call nnn) s = .next t ∧ exec .ret (t.setPc p) = .next u ∧
      u.pc = s.pc + 2 ∧ u.sp = s.sp

/-- R69: an absolute jump. -/
def Obligations.JumpGoesToAddress : Prop :=
  ∀ nnn : Addr12, decode (0x1#4 ++ nnn) = .jp nnn ∧
    ∀ s, ∃ t, exec (.jp nnn) s = .next t ∧ t.pc.toNat = nnn.toNat ∧ SameBut [] s t

/-- R71 (the sum is kept at 16 bits: the spec's decision D5). -/
def Obligations.JumpV0AddsV0Unmasked : Prop :=
  ∀ nnn : Addr12, decode (0xB#4 ++ nnn) = .jpV0 nnn ∧
    ∀ s, ∃ t, exec (.jpV0 nnn) s = .next t ∧ t.pc.toNat = nnn.toNat + (s.reg 0).toNat ∧ SameBut [] s t

/-- R73, R74: skip the next instruction if Vx equals, or does not equal, the immediate. -/
def Obligations.SkipsOnImmediate : Prop :=
  ∀ (x : RegIx) (kk : Byte),
    decode (0x3#4 ++ x ++ kk) = .seImm x kk ∧ decode (0x4#4 ++ x ++ kk) = .sneImm x kk ∧
    ∀ s,
      (∃ t, exec (.seImm x kk) s = .next t ∧
        t.pc = (if s.reg x = kk then s.pc + 4 else s.pc + 2) ∧ SameBut [] s t) ∧
      (∃ t, exec (.sneImm x kk) s = .next t ∧
        t.pc = (if s.reg x ≠ kk then s.pc + 4 else s.pc + 2) ∧ SameBut [] s t)

/-- R75, R76 (that n3 is ignored is marked by the spec as derived, R55). -/
def Obligations.SkipsOnRegister : Prop :=
  ∀ (x y : RegIx) (n : Nibble),
    decode (0x5#4 ++ x ++ y ++ n) = .seReg x y n ∧ decode (0x9#4 ++ x ++ y ++ n) = .sneReg x y n ∧
    ∀ s,
      (∃ t, exec (.seReg x y n) s = .next t ∧
        t.pc = (if s.reg x = s.reg y then s.pc + 4 else s.pc + 2) ∧ SameBut [] s t) ∧
      (∃ t, exec (.sneReg x y n) s = .next t ∧
        t.pc = (if s.reg x ≠ s.reg y then s.pc + 4 else s.pc + 2) ∧ SameBut [] s t)

/-- R68, R103, R58 (the no-op spaces of classes 0, 8, E and F follow the spec's decisions D6, D7, D8): SYS and
the unassigned words only advance the program counter. -/
def Obligations.UnassignedWordsOnlyAdvance : Prop :=
  (∀ nnn : Addr12, nnn ≠ 0x0E0 → nnn ≠ 0x0EE → decode (0x0#4 ++ nnn) = .sys nnn) ∧
  (∀ x y s : Nibble, s ∈ [0x8#4, 0x9#4, 0xA#4, 0xB#4, 0xC#4, 0xD#4, 0xF#4] →
    decode (0x8#4 ++ x ++ y ++ s) = .nop8 x y s) ∧
  (∀ (x : Nibble) (s : Byte), s ∉ [0x9E#8, 0xA1#8] → decode (0xE#4 ++ x ++ s) = .nopE x s) ∧
  (∀ (x : Nibble) (s : Byte),
    s ∉ [0x07#8, 0x0A#8, 0x15#8, 0x18#8, 0x1E#8, 0x29#8, 0x33#8, 0x55#8, 0x65#8] →
    decode (0xF#4 ++ x ++ s) = .nopF x s) ∧
  ∀ i : Instr,
    ((∃ nnn, i = .sys nnn) ∨ (∃ x y s, i = .nop8 x y s) ∨ (∃ x s, i = .nopE x s) ∨ ∃ x s, i = .nopF x s) →
    ∀ s, ∃ t, exec i s = .next t ∧ t.pc = s.pc + 2 ∧ SameBut [] s t

/-! ## The ALU -/

/-- R77. -/
def Obligations.LoadImmediateWritesRegister : Prop :=
  ∀ (x : RegIx) (kk : Byte), decode (0x6#4 ++ x ++ kk) = .ldImm x kk ∧
    ∀ s, ∃ t, exec (.ldImm x kk) s = .next t ∧ t.reg x = kk ∧ t.pc = s.pc + 2 ∧
      RegsBut [x] s t ∧ SameBut [.regs] s t

/-- R78: the sum wraps and no flag is set. -/
def Obligations.AddImmediateWrapsWithoutFlag : Prop :=
  ∀ (x : RegIx) (kk : Byte), decode (0x7#4 ++ x ++ kk) = .addImm x kk ∧
    ∀ s, ∃ t, exec (.addImm x kk) s = .next t ∧
      (t.reg x).toNat = ((s.reg x).toNat + kk.toNat) % 256 ∧ t.pc = s.pc + 2 ∧
      RegsBut [x] s t ∧ SameBut [.regs] s t

/-- R79 to R82 (VF unchanged is the spec's decision D10, the sub-opcodes D8). -/
def Obligations.MoveAndLogicLeaveFlags : Prop :=
  ∀ x y : RegIx,
    decode (0x8#4 ++ x ++ y ++ 0x0#4) = .mov x y ∧ decode (0x8#4 ++ x ++ y ++ 0x1#4) = .orReg x y ∧
    decode (0x8#4 ++ x ++ y ++ 0x2#4) = .andReg x y ∧ decode (0x8#4 ++ x ++ y ++ 0x3#4) = .xorReg x y ∧
    ∀ s,
      (∃ t, exec (.mov x y) s = .next t ∧ t.reg x = s.reg y ∧ t.pc = s.pc + 2 ∧
        RegsBut [x] s t ∧ SameBut [.regs] s t) ∧
      (∃ t, exec (.orReg x y) s = .next t ∧
        (∀ k, (t.reg x).getLsbD k = ((s.reg x).getLsbD k || (s.reg y).getLsbD k)) ∧ t.pc = s.pc + 2 ∧
        RegsBut [x] s t ∧ SameBut [.regs] s t) ∧
      (∃ t, exec (.andReg x y) s = .next t ∧
        (∀ k, (t.reg x).getLsbD k = ((s.reg x).getLsbD k && (s.reg y).getLsbD k)) ∧ t.pc = s.pc + 2 ∧
        RegsBut [x] s t ∧ SameBut [.regs] s t) ∧
      (∃ t, exec (.xorReg x y) s = .next t ∧
        (∀ k, (t.reg x).getLsbD k = ((s.reg x).getLsbD k).xor ((s.reg y).getLsbD k)) ∧ t.pc = s.pc + 2 ∧
        RegsBut [x] s t ∧ SameBut [.regs] s t)

/-- R83 and source property W1 (the sub-opcode is the spec's decision D8): the wrapped sum, then the carry in
VF, which wins when x is F. -/
def Obligations.AddSetsCarry : Prop :=
  ∀ x y : RegIx, decode (0x8#4 ++ x ++ y ++ 0x4#4) = .addReg x y ∧
    ∀ s, ∃ t, exec (.addReg x y) s = .next t ∧
      (x ≠ 0xF#4 → (t.reg x).toNat = ((s.reg x).toNat + (s.reg y).toNat) % 256) ∧
      t.reg 0xF#4 = (if 255 < (s.reg x).toNat + (s.reg y).toNat then 1 else 0) ∧
      t.pc = s.pc + 2 ∧ RegsBut [x, 0xF#4] s t ∧ SameBut [.regs] s t

/-- R84, R86 and source property W2 (the sub-opcodes are the spec's decision D8): the wrapped difference, then
NOT-borrow in VF. -/
def Obligations.SubtractSetsNotBorrow : Prop :=
  ∀ x y : RegIx,
    decode (0x8#4 ++ x ++ y ++ 0x5#4) = .subReg x y ∧ decode (0x8#4 ++ x ++ y ++ 0x7#4) = .subn x y ∧
    ∀ s,
      (∃ t, exec (.subReg x y) s = .next t ∧
        (x ≠ 0xF#4 → (t.reg x).toNat = ((s.reg x).toNat + 256 - (s.reg y).toNat) % 256) ∧
        t.reg 0xF#4 = (if (s.reg y).toNat ≤ (s.reg x).toNat then 1 else 0) ∧
        t.pc = s.pc + 2 ∧ RegsBut [x, 0xF#4] s t ∧ SameBut [.regs] s t) ∧
      (∃ t, exec (.subn x y) s = .next t ∧
        (x ≠ 0xF#4 → (t.reg x).toNat = ((s.reg y).toNat + 256 - (s.reg x).toNat) % 256) ∧
        t.reg 0xF#4 = (if (s.reg x).toNat ≤ (s.reg y).toNat then 1 else 0) ∧
        t.pc = s.pc + 2 ∧ RegsBut [x, 0xF#4] s t ∧ SameBut [.regs] s t)

/-- R85, R87 and source property W5 (that Vx is shifted and y ignored is the spec's decision D9, the
sub-opcodes D8): shift by one, then the bit shifted out in VF. -/
def Obligations.ShiftsSetShiftedOutBit : Prop :=
  ∀ x y : RegIx,
    decode (0x8#4 ++ x ++ y ++ 0x6#4) = .shr x y ∧ decode (0x8#4 ++ x ++ y ++ 0xE#4) = .shl x y ∧
    ∀ s,
      (∃ t, exec (.shr x y) s = .next t ∧
        (x ≠ 0xF#4 → (t.reg x).toNat = (s.reg x).toNat / 2) ∧
        (t.reg 0xF#4).toNat = (s.reg x).toNat % 2 ∧
        t.pc = s.pc + 2 ∧ RegsBut [x, 0xF#4] s t ∧ SameBut [.regs] s t) ∧
      (∃ t, exec (.shl x y) s = .next t ∧
        (x ≠ 0xF#4 → (t.reg x).toNat = (s.reg x).toNat * 2 % 256) ∧
        (t.reg 0xF#4).toNat = (s.reg x).toNat / 128 ∧
        t.pc = s.pc + 2 ∧ RegsBut [x, 0xF#4] s t ∧ SameBut [.regs] s t)

/-- R90 (that every value of 0..kk is admitted is the spec's decision D14): the draw reduced modulo kk + 1,
never above kk; the draw itself is free (log entry 6), so the statement holds for every answer of the random
collaborator, and every value of 0..kk is the result of some answer. -/
def Obligations.RandomIsBoundedByImmediate : Prop :=
  ∀ (x : RegIx) (kk : Byte), decode (0xC#4 ++ x ++ kk) = .rnd x kk ∧
    (∀ s, ∃ t, exec (.rnd x kk) s = .next t ∧
      t.reg x = boundedDraw (Config.randomDraw s.draws) kk ∧ t.draws = s.draws + 1 ∧ t.pc = s.pc + 2 ∧
      RegsBut [x] s t ∧ SameBut [.regs, .random] s t) ∧
    (∀ r, (boundedDraw r kk).toNat = r % (kk.toNat + 1)) ∧
    ∀ v : Byte, v.toNat ≤ kk.toNat → ∃ r, boundedDraw r kk = v

/-! ## Index and memory -/

/-- R91. -/
def Obligations.LoadIndexStoresAddress : Prop :=
  ∀ nnn : Addr12, decode (0xA#4 ++ nnn) = .ldI nnn ∧
    ∀ s, ∃ t, exec (.ldI nnn) s = .next t ∧ t.i.toNat = nnn.toNat ∧ t.pc = s.pc + 2 ∧ SameBut [.index] s t

/-- R92 (keeping the asymmetry is the spec's decision D12, the class-F dispatch D7): on overflow VF is 1 and I
is not changed; else the sum is stored and VF is 0. -/
def Obligations.AddIndexKeepsIndexOnOverflow : Prop :=
  ∀ x : RegIx, decode (0xF#4 ++ x ++ 0x1E#8) = .addI x ∧
    ∀ s, ∃ t, exec (.addI x) s = .next t ∧
      (0xFFF < s.i.toNat + (s.reg x).toNat → t.i = s.i ∧ t.reg 0xF#4 = 1) ∧
      (s.i.toNat + (s.reg x).toNat ≤ 0xFFF → t.i.toNat = s.i.toNat + (s.reg x).toNat ∧ t.reg 0xF#4 = 0) ∧
      t.pc = s.pc + 2 ∧ RegsBut [0xF#4] s t ∧ SameBut [.regs, .index] s t

/-- R93 (the class-F dispatch is the spec's decision D7): Vx is not reduced to a digit. -/
def Obligations.LoadFontAddressIsFiveTimesVx : Prop :=
  ∀ x : RegIx, decode (0xF#4 ++ x ++ 0x29#8) = .ldF x ∧
    ∀ s, ∃ t, exec (.ldF x) s = .next t ∧ t.i.toNat = 5 * (s.reg x).toNat ∧ t.pc = s.pc + 2 ∧
      SameBut [.index] s t

/-- R94 (the class-F dispatch is the spec's decision D7, the address reduction D2): the three decimal digits
at I, I + 1, I + 2. -/
def Obligations.StoreBcdDigits : Prop :=
  ∀ x : RegIx, decode (0xF#4 ++ x ++ 0x33#8) = .ldB x ∧
    ∀ s, ∃ t, exec (.ldB x) s = .next t ∧ t.pc = s.pc + 2 ∧
      (t.readByte s.i.toNat).toNat = (s.reg x).toNat / 100 ∧
      (t.readByte (s.i.toNat + 1)).toNat = (s.reg x).toNat / 10 % 10 ∧
      (t.readByte (s.i.toNat + 2)).toNat = (s.reg x).toNat % 10 ∧
      MemoryBut s.i.toNat 3 s t ∧ SameBut [.memory] s t

/-- R95 (that I stays is the spec's decision D13, the class-F dispatch D7, the address reduction D2): V0..Vx
from I upward. -/
def Obligations.StoreRegistersFromIndex : Prop :=
  ∀ x : RegIx, decode (0xF#4 ++ x ++ 0x55#8) = .ldMemVx x ∧
    ∀ s, ∃ t, exec (.ldMemVx x) s = .next t ∧ t.pc = s.pc + 2 ∧
      (∀ k : RegIx, k.toNat ≤ x.toNat → t.readByte (s.i.toNat + k.toNat) = s.reg k) ∧
      MemoryBut s.i.toNat (x.toNat + 1) s t ∧ SameBut [.memory] s t

/-- R96 (that I stays is the spec's decision D13, the class-F dispatch D7, the address reduction D2): V0..Vx
from memory at I upward. -/
def Obligations.LoadRegistersFromIndex : Prop :=
  ∀ x : RegIx, decode (0xF#4 ++ x ++ 0x65#8) = .ldVxMem x ∧
    ∀ s, ∃ t, exec (.ldVxMem x) s = .next t ∧ t.pc = s.pc + 2 ∧
      (∀ k : RegIx, k.toNat ≤ x.toNat → t.reg k = s.readByte (s.i.toNat + k.toNat)) ∧
      (∀ k : RegIx, x.toNat < k.toNat → t.reg k = s.reg k) ∧ SameBut [.regs] s t

/-! ## Keys and timers -/

/-- R97, R98 (the low 4 bits of Vx are the spec's decision D15, the class-E dispatch D7). -/
def Obligations.SkipsOnKey : Prop :=
  ∀ x : RegIx, decode (0xE#4 ++ x ++ 0x9E#8) = .skp x ∧ decode (0xE#4 ++ x ++ 0xA1#8) = .sknp x ∧
    ∀ (s : State) (k : KeyCode), k.toNat = (s.reg x).toNat % 16 →
      (∃ t, exec (.skp x) s = .next t ∧
        t.pc = (if s.key k = .pressed then s.pc + 4 else s.pc + 2) ∧ SameBut [] s t) ∧
      (∃ t, exec (.sknp x) s = .next t ∧
        t.pc = (if s.key k = .released then s.pc + 4 else s.pc + 2) ∧ SameBut [] s t)

/-- R99 to R101 (the pairing of the codes with their actions is the spec's decision D11, the class-F dispatch
D7). -/
def Obligations.TimersAreReadAndWritten : Prop :=
  ∀ x : RegIx, decode (0xF#4 ++ x ++ 0x07#8) = .ldVxDt x ∧ decode (0xF#4 ++ x ++ 0x15#8) = .ldDtVx x ∧
    decode (0xF#4 ++ x ++ 0x18#8) = .ldStVx x ∧
    ∀ s,
      (∃ t, exec (.ldVxDt x) s = .next t ∧ t.reg x = s.dt ∧ t.pc = s.pc + 2 ∧
        RegsBut [x] s t ∧ SameBut [.regs] s t) ∧
      (∃ t, exec (.ldDtVx x) s = .next t ∧ t.dt = s.reg x ∧ t.pc = s.pc + 2 ∧ SameBut [.delay] s t) ∧
      (∃ t, exec (.ldStVx x) s = .next t ∧ t.st = s.reg x ∧ t.pc = s.pc + 2 ∧ SameBut [.sound] s t)

/-! ## SLOT at a poll -/

/-- R28: SLOT, "the number of instructions already completed in the current frame's batch", is in 0..IPF; it is 0
before and after every poll, whether the poll halts the machine or opens the batch; a frame's end starts it again
at 0; and every other step moves it by the number of instructions the step completes. (That R28's count is the
counter of R110 inside a batch and 0 at a poll is log entry 16; an unanswered wait completes none, log entry 5.) -/
def Obligations.SlotIsZeroAtEveryPoll : Prop :=
  (∀ (cfg : Config) (program : List Byte), (boot cfg program).batchCount = 0) ∧
  (∀ s t : State, s.run = .running → s.phase = .atPoll → step s = .next t →
    s.batchCount = 0 ∧ t.batchCount = 0) ∧
  ∀ s t : State, s.Inv → step s = .next t →
    t.batchCount ≤ t.cfg.ipf ∧ (s.atFrameEnd → t.batchCount = 0) ∧
    (¬ s.atFrameEnd → t.batchCount = s.batchCount + completedBy s t)
end

