-- ==== Sys2Proof/Laws/State.lean ====
section
/-! SUPPORT. One lemma per field per update, so that no later proof unfolds a record update. -/

namespace Sys2Proof.Machine

section

variable (s : State) (a : Nat) (b : Byte)

@[simp] theorem State.writeByte_v : (s.writeByte a b).v = s.v := rfl
@[simp] theorem State.writeByte_i : (s.writeByte a b).i = s.i := rfl
@[simp] theorem State.writeByte_pc : (s.writeByte a b).pc = s.pc := rfl
@[simp] theorem State.writeByte_stack : (s.writeByte a b).stack = s.stack := rfl
@[simp] theorem State.writeByte_sp : (s.writeByte a b).sp = s.sp := rfl
@[simp] theorem State.writeByte_dt : (s.writeByte a b).dt = s.dt := rfl
@[simp] theorem State.writeByte_st : (s.writeByte a b).st = s.st := rfl
@[simp] theorem State.writeByte_keys : (s.writeByte a b).keys = s.keys := rfl
@[simp] theorem State.writeByte_fb : (s.writeByte a b).fb = s.fb := rfl
@[simp] theorem State.writeByte_run : (s.writeByte a b).run = s.run := rfl
@[simp] theorem State.writeByte_phase : (s.writeByte a b).phase = s.phase := rfl
@[simp] theorem State.writeByte_slot : (s.writeByte a b).slot = s.slot := rfl
@[simp] theorem State.writeByte_cfg : (s.writeByte a b).cfg = s.cfg := rfl
@[simp] theorem State.writeByte_polls : (s.writeByte a b).polls = s.polls := rfl
@[simp] theorem State.writeByte_waits : (s.writeByte a b).waits = s.waits := rfl
@[simp] theorem State.writeByte_draws : (s.writeByte a b).draws = s.draws := rfl
@[simp] theorem State.writeByte_display : (s.writeByte a b).display = s.display := rfl
@[simp] theorem State.writeByte_presents : (s.writeByte a b).presents = s.presents := rfl
@[simp] theorem State.writeByte_reg (r : RegIx) : (s.writeByte a b).reg r = s.reg r := rfl
@[simp] theorem State.writeByte_key (j : KeyCode) : (s.writeByte a b).key j = s.key j := rfl
@[simp] theorem State.writeByte_stackAt (j : Fin 16) : (s.writeByte a b).stackAt j = s.stackAt j := rfl

end

section

variable (s : State) (x : RegIx) (b : Byte)

@[simp] theorem State.setReg_i : (s.setReg x b).i = s.i := rfl
@[simp] theorem State.setReg_pc : (s.setReg x b).pc = s.pc := rfl
@[simp] theorem State.setReg_stack : (s.setReg x b).stack = s.stack := rfl
@[simp] theorem State.setReg_sp : (s.setReg x b).sp = s.sp := rfl
@[simp] theorem State.setReg_dt : (s.setReg x b).dt = s.dt := rfl
@[simp] theorem State.setReg_st : (s.setReg x b).st = s.st := rfl
@[simp] theorem State.setReg_keys : (s.setReg x b).keys = s.keys := rfl
@[simp] theorem State.setReg_fb : (s.setReg x b).fb = s.fb := rfl
@[simp] theorem State.setReg_mem : (s.setReg x b).mem = s.mem := rfl
@[simp] theorem State.setReg_run : (s.setReg x b).run = s.run := rfl
@[simp] theorem State.setReg_phase : (s.setReg x b).phase = s.phase := rfl
@[simp] theorem State.setReg_slot : (s.setReg x b).slot = s.slot := rfl
@[simp] theorem State.setReg_cfg : (s.setReg x b).cfg = s.cfg := rfl
@[simp] theorem State.setReg_polls : (s.setReg x b).polls = s.polls := rfl
@[simp] theorem State.setReg_waits : (s.setReg x b).waits = s.waits := rfl
@[simp] theorem State.setReg_draws : (s.setReg x b).draws = s.draws := rfl
@[simp] theorem State.setReg_display : (s.setReg x b).display = s.display := rfl
@[simp] theorem State.setReg_presents : (s.setReg x b).presents = s.presents := rfl
@[simp] theorem State.setReg_key (j : KeyCode) : (s.setReg x b).key j = s.key j := rfl
@[simp] theorem State.setReg_readByte (p : Nat) : (s.setReg x b).readByte p = s.readByte p := rfl
@[simp] theorem State.setReg_stackAt (j : Fin 16) : (s.setReg x b).stackAt j = s.stackAt j := rfl

end

section

variable (s : State) (a : Word)

@[simp] theorem State.setI_v : (s.setI a).v = s.v := rfl
@[simp] theorem State.setI_pc : (s.setI a).pc = s.pc := rfl
@[simp] theorem State.setI_stack : (s.setI a).stack = s.stack := rfl
@[simp] theorem State.setI_sp : (s.setI a).sp = s.sp := rfl
@[simp] theorem State.setI_dt : (s.setI a).dt = s.dt := rfl
@[simp] theorem State.setI_st : (s.setI a).st = s.st := rfl
@[simp] theorem State.setI_keys : (s.setI a).keys = s.keys := rfl
@[simp] theorem State.setI_fb : (s.setI a).fb = s.fb := rfl
@[simp] theorem State.setI_mem : (s.setI a).mem = s.mem := rfl
@[simp] theorem State.setI_run : (s.setI a).run = s.run := rfl
@[simp] theorem State.setI_phase : (s.setI a).phase = s.phase := rfl
@[simp] theorem State.setI_slot : (s.setI a).slot = s.slot := rfl
@[simp] theorem State.setI_cfg : (s.setI a).cfg = s.cfg := rfl
@[simp] theorem State.setI_polls : (s.setI a).polls = s.polls := rfl
@[simp] theorem State.setI_waits : (s.setI a).waits = s.waits := rfl
@[simp] theorem State.setI_draws : (s.setI a).draws = s.draws := rfl
@[simp] theorem State.setI_display : (s.setI a).display = s.display := rfl
@[simp] theorem State.setI_presents : (s.setI a).presents = s.presents := rfl
@[simp] theorem State.setI_i : (s.setI a).i = a := rfl
@[simp] theorem State.setI_reg (r : RegIx) : (s.setI a).reg r = s.reg r := rfl
@[simp] theorem State.setI_key (j : KeyCode) : (s.setI a).key j = s.key j := rfl
@[simp] theorem State.setI_readByte (p : Nat) : (s.setI a).readByte p = s.readByte p := rfl
@[simp] theorem State.setI_stackAt (j : Fin 16) : (s.setI a).stackAt j = s.stackAt j := rfl

end

section

variable (s : State) (a : Word)

@[simp] theorem State.setPc_v : (s.setPc a).v = s.v := rfl
@[simp] theorem State.setPc_i : (s.setPc a).i = s.i := rfl
@[simp] theorem State.setPc_stack : (s.setPc a).stack = s.stack := rfl
@[simp] theorem State.setPc_sp : (s.setPc a).sp = s.sp := rfl
@[simp] theorem State.setPc_dt : (s.setPc a).dt = s.dt := rfl
@[simp] theorem State.setPc_st : (s.setPc a).st = s.st := rfl
@[simp] theorem State.setPc_keys : (s.setPc a).keys = s.keys := rfl
@[simp] theorem State.setPc_fb : (s.setPc a).fb = s.fb := rfl
@[simp] theorem State.setPc_mem : (s.setPc a).mem = s.mem := rfl
@[simp] theorem State.setPc_run : (s.setPc a).run = s.run := rfl
@[simp] theorem State.setPc_phase : (s.setPc a).phase = s.phase := rfl
@[simp] theorem State.setPc_slot : (s.setPc a).slot = s.slot := rfl
@[simp] theorem State.setPc_cfg : (s.setPc a).cfg = s.cfg := rfl
@[simp] theorem State.setPc_polls : (s.setPc a).polls = s.polls := rfl
@[simp] theorem State.setPc_waits : (s.setPc a).waits = s.waits := rfl
@[simp] theorem State.setPc_draws : (s.setPc a).draws = s.draws := rfl
@[simp] theorem State.setPc_display : (s.setPc a).display = s.display := rfl
@[simp] theorem State.setPc_presents : (s.setPc a).presents = s.presents := rfl
@[simp] theorem State.setPc_pc : (s.setPc a).pc = a := rfl
@[simp] theorem State.setPc_reg (r : RegIx) : (s.setPc a).reg r = s.reg r := rfl
@[simp] theorem State.setPc_key (j : KeyCode) : (s.setPc a).key j = s.key j := rfl
@[simp] theorem State.setPc_readByte (p : Nat) : (s.setPc a).readByte p = s.readByte p := rfl
@[simp] theorem State.setPc_stackAt (j : Fin 16) : (s.setPc a).stackAt j = s.stackAt j := rfl

end

section

variable (s : State) (b : Byte)

@[simp] theorem State.setDt_v : (s.setDt b).v = s.v := rfl
@[simp] theorem State.setDt_i : (s.setDt b).i = s.i := rfl
@[simp] theorem State.setDt_pc : (s.setDt b).pc = s.pc := rfl
@[simp] theorem State.setDt_stack : (s.setDt b).stack = s.stack := rfl
@[simp] theorem State.setDt_sp : (s.setDt b).sp = s.sp := rfl
@[simp] theorem State.setDt_st : (s.setDt b).st = s.st := rfl
@[simp] theorem State.setDt_keys : (s.setDt b).keys = s.keys := rfl
@[simp] theorem State.setDt_fb : (s.setDt b).fb = s.fb := rfl
@[simp] theorem State.setDt_mem : (s.setDt b).mem = s.mem := rfl
@[simp] theorem State.setDt_run : (s.setDt b).run = s.run := rfl
@[simp] theorem State.setDt_phase : (s.setDt b).phase = s.phase := rfl
@[simp] theorem State.setDt_slot : (s.setDt b).slot = s.slot := rfl
@[simp] theorem State.setDt_cfg : (s.setDt b).cfg = s.cfg := rfl
@[simp] theorem State.setDt_polls : (s.setDt b).polls = s.polls := rfl
@[simp] theorem State.setDt_waits : (s.setDt b).waits = s.waits := rfl
@[simp] theorem State.setDt_draws : (s.setDt b).draws = s.draws := rfl
@[simp] theorem State.setDt_display : (s.setDt b).display = s.display := rfl
@[simp] theorem State.setDt_presents : (s.setDt b).presents = s.presents := rfl
@[simp] theorem State.setDt_dt : (s.setDt b).dt = b := rfl
@[simp] theorem State.setDt_reg (r : RegIx) : (s.setDt b).reg r = s.reg r := rfl
@[simp] theorem State.setDt_key (j : KeyCode) : (s.setDt b).key j = s.key j := rfl
@[simp] theorem State.setDt_readByte (p : Nat) : (s.setDt b).readByte p = s.readByte p := rfl
@[simp] theorem State.setDt_stackAt (j : Fin 16) : (s.setDt b).stackAt j = s.stackAt j := rfl

end

section

variable (s : State) (b : Byte)

@[simp] theorem State.setSt_v : (s.setSt b).v = s.v := rfl
@[simp] theorem State.setSt_i : (s.setSt b).i = s.i := rfl
@[simp] theorem State.setSt_pc : (s.setSt b).pc = s.pc := rfl
@[simp] theorem State.setSt_stack : (s.setSt b).stack = s.stack := rfl
@[simp] theorem State.setSt_sp : (s.setSt b).sp = s.sp := rfl
@[simp] theorem State.setSt_dt : (s.setSt b).dt = s.dt := rfl
@[simp] theorem State.setSt_keys : (s.setSt b).keys = s.keys := rfl
@[simp] theorem State.setSt_fb : (s.setSt b).fb = s.fb := rfl
@[simp] theorem State.setSt_mem : (s.setSt b).mem = s.mem := rfl
@[simp] theorem State.setSt_run : (s.setSt b).run = s.run := rfl
@[simp] theorem State.setSt_phase : (s.setSt b).phase = s.phase := rfl
@[simp] theorem State.setSt_slot : (s.setSt b).slot = s.slot := rfl
@[simp] theorem State.setSt_cfg : (s.setSt b).cfg = s.cfg := rfl
@[simp] theorem State.setSt_polls : (s.setSt b).polls = s.polls := rfl
@[simp] theorem State.setSt_waits : (s.setSt b).waits = s.waits := rfl
@[simp] theorem State.setSt_draws : (s.setSt b).draws = s.draws := rfl
@[simp] theorem State.setSt_display : (s.setSt b).display = s.display := rfl
@[simp] theorem State.setSt_presents : (s.setSt b).presents = s.presents := rfl
@[simp] theorem State.setSt_st : (s.setSt b).st = b := rfl
@[simp] theorem State.setSt_reg (r : RegIx) : (s.setSt b).reg r = s.reg r := rfl
@[simp] theorem State.setSt_key (j : KeyCode) : (s.setSt b).key j = s.key j := rfl
@[simp] theorem State.setSt_readByte (p : Nat) : (s.setSt b).readByte p = s.readByte p := rfl
@[simp] theorem State.setSt_stackAt (j : Fin 16) : (s.setSt b).stackAt j = s.stackAt j := rfl

end

section

variable (s : State) (k : KeyCode) (c : KeyState)

@[simp] theorem State.setKey_v : (s.setKey k c).v = s.v := rfl
@[simp] theorem State.setKey_i : (s.setKey k c).i = s.i := rfl
@[simp] theorem State.setKey_pc : (s.setKey k c).pc = s.pc := rfl
@[simp] theorem State.setKey_stack : (s.setKey k c).stack = s.stack := rfl
@[simp] theorem State.setKey_sp : (s.setKey k c).sp = s.sp := rfl
@[simp] theorem State.setKey_dt : (s.setKey k c).dt = s.dt := rfl
@[simp] theorem State.setKey_st : (s.setKey k c).st = s.st := rfl
@[simp] theorem State.setKey_fb : (s.setKey k c).fb = s.fb := rfl
@[simp] theorem State.setKey_mem : (s.setKey k c).mem = s.mem := rfl
@[simp] theorem State.setKey_run : (s.setKey k c).run = s.run := rfl
@[simp] theorem State.setKey_phase : (s.setKey k c).phase = s.phase := rfl
@[simp] theorem State.setKey_slot : (s.setKey k c).slot = s.slot := rfl
@[simp] theorem State.setKey_cfg : (s.setKey k c).cfg = s.cfg := rfl
@[simp] theorem State.setKey_polls : (s.setKey k c).polls = s.polls := rfl
@[simp] theorem State.setKey_waits : (s.setKey k c).waits = s.waits := rfl
@[simp] theorem State.setKey_draws : (s.setKey k c).draws = s.draws := rfl
@[simp] theorem State.setKey_display : (s.setKey k c).display = s.display := rfl
@[simp] theorem State.setKey_presents : (s.setKey k c).presents = s.presents := rfl
@[simp] theorem State.setKey_reg (r : RegIx) : (s.setKey k c).reg r = s.reg r := rfl
@[simp] theorem State.setKey_readByte (p : Nat) : (s.setKey k c).readByte p = s.readByte p := rfl
@[simp] theorem State.setKey_stackAt (j : Fin 16) : (s.setKey k c).stackAt j = s.stackAt j := rfl

end

section

variable (s : State) (fb : Framebuffer)

@[simp] theorem State.setFb_v : (s.setFb fb).v = s.v := rfl
@[simp] theorem State.setFb_i : (s.setFb fb).i = s.i := rfl
@[simp] theorem State.setFb_pc : (s.setFb fb).pc = s.pc := rfl
@[simp] theorem State.setFb_stack : (s.setFb fb).stack = s.stack := rfl
@[simp] theorem State.setFb_sp : (s.setFb fb).sp = s.sp := rfl
@[simp] theorem State.setFb_dt : (s.setFb fb).dt = s.dt := rfl
@[simp] theorem State.setFb_st : (s.setFb fb).st = s.st := rfl
@[simp] theorem State.setFb_keys : (s.setFb fb).keys = s.keys := rfl
@[simp] theorem State.setFb_mem : (s.setFb fb).mem = s.mem := rfl
@[simp] theorem State.setFb_run : (s.setFb fb).run = s.run := rfl
@[simp] theorem State.setFb_phase : (s.setFb fb).phase = s.phase := rfl
@[simp] theorem State.setFb_slot : (s.setFb fb).slot = s.slot := rfl
@[simp] theorem State.setFb_cfg : (s.setFb fb).cfg = s.cfg := rfl
@[simp] theorem State.setFb_polls : (s.setFb fb).polls = s.polls := rfl
@[simp] theorem State.setFb_waits : (s.setFb fb).waits = s.waits := rfl
@[simp] theorem State.setFb_draws : (s.setFb fb).draws = s.draws := rfl
@[simp] theorem State.setFb_display : (s.setFb fb).display = s.display := rfl
@[simp] theorem State.setFb_presents : (s.setFb fb).presents = s.presents := rfl
@[simp] theorem State.setFb_fb : (s.setFb fb).fb = fb := rfl
@[simp] theorem State.setFb_reg (r : RegIx) : (s.setFb fb).reg r = s.reg r := rfl
@[simp] theorem State.setFb_key (j : KeyCode) : (s.setFb fb).key j = s.key j := rfl
@[simp] theorem State.setFb_readByte (p : Nat) : (s.setFb fb).readByte p = s.readByte p := rfl
@[simp] theorem State.setFb_stackAt (j : Fin 16) : (s.setFb fb).stackAt j = s.stackAt j := rfl

end

section

variable (s : State) (z : Run)

@[simp] theorem State.setRun_v : (s.setRun z).v = s.v := rfl
@[simp] theorem State.setRun_i : (s.setRun z).i = s.i := rfl
@[simp] theorem State.setRun_pc : (s.setRun z).pc = s.pc := rfl
@[simp] theorem State.setRun_stack : (s.setRun z).stack = s.stack := rfl
@[simp] theorem State.setRun_sp : (s.setRun z).sp = s.sp := rfl
@[simp] theorem State.setRun_dt : (s.setRun z).dt = s.dt := rfl
@[simp] theorem State.setRun_st : (s.setRun z).st = s.st := rfl
@[simp] theorem State.setRun_keys : (s.setRun z).keys = s.keys := rfl
@[simp] theorem State.setRun_fb : (s.setRun z).fb = s.fb := rfl
@[simp] theorem State.setRun_mem : (s.setRun z).mem = s.mem := rfl
@[simp] theorem State.setRun_phase : (s.setRun z).phase = s.phase := rfl
@[simp] theorem State.setRun_slot : (s.setRun z).slot = s.slot := rfl
@[simp] theorem State.setRun_cfg : (s.setRun z).cfg = s.cfg := rfl
@[simp] theorem State.setRun_polls : (s.setRun z).polls = s.polls := rfl
@[simp] theorem State.setRun_waits : (s.setRun z).waits = s.waits := rfl
@[simp] theorem State.setRun_draws : (s.setRun z).draws = s.draws := rfl
@[simp] theorem State.setRun_display : (s.setRun z).display = s.display := rfl
@[simp] theorem State.setRun_presents : (s.setRun z).presents = s.presents := rfl
@[simp] theorem State.setRun_run : (s.setRun z).run = z := rfl
@[simp] theorem State.setRun_reg (r : RegIx) : (s.setRun z).reg r = s.reg r := rfl
@[simp] theorem State.setRun_key (j : KeyCode) : (s.setRun z).key j = s.key j := rfl
@[simp] theorem State.setRun_readByte (p : Nat) : (s.setRun z).readByte p = s.readByte p := rfl
@[simp] theorem State.setRun_stackAt (j : Fin 16) : (s.setRun z).stackAt j = s.stackAt j := rfl

end

section

variable (s : State) (c : Bool)

@[simp] theorem State.setFlag_i : (s.setFlag c).i = s.i := rfl
@[simp] theorem State.setFlag_pc : (s.setFlag c).pc = s.pc := rfl
@[simp] theorem State.setFlag_stack : (s.setFlag c).stack = s.stack := rfl
@[simp] theorem State.setFlag_sp : (s.setFlag c).sp = s.sp := rfl
@[simp] theorem State.setFlag_dt : (s.setFlag c).dt = s.dt := rfl
@[simp] theorem State.setFlag_st : (s.setFlag c).st = s.st := rfl
@[simp] theorem State.setFlag_keys : (s.setFlag c).keys = s.keys := rfl
@[simp] theorem State.setFlag_fb : (s.setFlag c).fb = s.fb := rfl
@[simp] theorem State.setFlag_mem : (s.setFlag c).mem = s.mem := rfl
@[simp] theorem State.setFlag_run : (s.setFlag c).run = s.run := rfl
@[simp] theorem State.setFlag_phase : (s.setFlag c).phase = s.phase := rfl
@[simp] theorem State.setFlag_slot : (s.setFlag c).slot = s.slot := rfl
@[simp] theorem State.setFlag_cfg : (s.setFlag c).cfg = s.cfg := rfl
@[simp] theorem State.setFlag_polls : (s.setFlag c).polls = s.polls := rfl
@[simp] theorem State.setFlag_waits : (s.setFlag c).waits = s.waits := rfl
@[simp] theorem State.setFlag_draws : (s.setFlag c).draws = s.draws := rfl
@[simp] theorem State.setFlag_display : (s.setFlag c).display = s.display := rfl
@[simp] theorem State.setFlag_presents : (s.setFlag c).presents = s.presents := rfl
@[simp] theorem State.setFlag_key (j : KeyCode) : (s.setFlag c).key j = s.key j := rfl
@[simp] theorem State.setFlag_readByte (p : Nat) : (s.setFlag c).readByte p = s.readByte p := rfl
@[simp] theorem State.setFlag_stackAt (j : Fin 16) : (s.setFlag c).stackAt j = s.stackAt j := rfl

end

section

variable (s : State)

@[simp] theorem State.advance_v : (s.advance).v = s.v := rfl
@[simp] theorem State.advance_i : (s.advance).i = s.i := rfl
@[simp] theorem State.advance_stack : (s.advance).stack = s.stack := rfl
@[simp] theorem State.advance_sp : (s.advance).sp = s.sp := rfl
@[simp] theorem State.advance_dt : (s.advance).dt = s.dt := rfl
@[simp] theorem State.advance_st : (s.advance).st = s.st := rfl
@[simp] theorem State.advance_keys : (s.advance).keys = s.keys := rfl
@[simp] theorem State.advance_fb : (s.advance).fb = s.fb := rfl
@[simp] theorem State.advance_mem : (s.advance).mem = s.mem := rfl
@[simp] theorem State.advance_run : (s.advance).run = s.run := rfl
@[simp] theorem State.advance_phase : (s.advance).phase = s.phase := rfl
@[simp] theorem State.advance_slot : (s.advance).slot = s.slot := rfl
@[simp] theorem State.advance_cfg : (s.advance).cfg = s.cfg := rfl
@[simp] theorem State.advance_polls : (s.advance).polls = s.polls := rfl
@[simp] theorem State.advance_waits : (s.advance).waits = s.waits := rfl
@[simp] theorem State.advance_draws : (s.advance).draws = s.draws := rfl
@[simp] theorem State.advance_display : (s.advance).display = s.display := rfl
@[simp] theorem State.advance_presents : (s.advance).presents = s.presents := rfl
@[simp] theorem State.advance_pc : (s.advance).pc = s.pc + 2 := rfl
@[simp] theorem State.advance_reg (r : RegIx) : (s.advance).reg r = s.reg r := rfl
@[simp] theorem State.advance_key (j : KeyCode) : (s.advance).key j = s.key j := rfl
@[simp] theorem State.advance_readByte (p : Nat) : (s.advance).readByte p = s.readByte p := rfl
@[simp] theorem State.advance_stackAt (j : Fin 16) : (s.advance).stackAt j = s.stackAt j := rfl

end

section

variable (s : State)

@[simp] theorem State.drop_v : (s.drop).v = s.v := rfl
@[simp] theorem State.drop_i : (s.drop).i = s.i := rfl
@[simp] theorem State.drop_pc : (s.drop).pc = s.pc := rfl
@[simp] theorem State.drop_stack : (s.drop).stack = s.stack := rfl
@[simp] theorem State.drop_dt : (s.drop).dt = s.dt := rfl
@[simp] theorem State.drop_st : (s.drop).st = s.st := rfl
@[simp] theorem State.drop_keys : (s.drop).keys = s.keys := rfl
@[simp] theorem State.drop_fb : (s.drop).fb = s.fb := rfl
@[simp] theorem State.drop_mem : (s.drop).mem = s.mem := rfl
@[simp] theorem State.drop_run : (s.drop).run = s.run := rfl
@[simp] theorem State.drop_phase : (s.drop).phase = s.phase := rfl
@[simp] theorem State.drop_slot : (s.drop).slot = s.slot := rfl
@[simp] theorem State.drop_cfg : (s.drop).cfg = s.cfg := rfl
@[simp] theorem State.drop_polls : (s.drop).polls = s.polls := rfl
@[simp] theorem State.drop_waits : (s.drop).waits = s.waits := rfl
@[simp] theorem State.drop_draws : (s.drop).draws = s.draws := rfl
@[simp] theorem State.drop_display : (s.drop).display = s.display := rfl
@[simp] theorem State.drop_presents : (s.drop).presents = s.presents := rfl
@[simp] theorem State.drop_reg (r : RegIx) : (s.drop).reg r = s.reg r := rfl
@[simp] theorem State.drop_key (j : KeyCode) : (s.drop).key j = s.key j := rfl
@[simp] theorem State.drop_readByte (p : Nat) : (s.drop).readByte p = s.readByte p := rfl
@[simp] theorem State.drop_stackAt (j : Fin 16) : (s.drop).stackAt j = s.stackAt j := rfl

end

end Sys2Proof.Machine
end

