-- ==== Sys2Proof/Laws/Memory.lean ====
section
/-! SUPPORT. Memory: every store keeps the canonical form; reads after stores; runs of bytes. -/

namespace Sys2Proof.Machine

theorem Config.memSize_pos (cfg : Config) : 0 < cfg.memSize := by have := cfg.memSize_low; omega

/-! ## Lists of cells -/

theorem Memory.lookup_filter (m : Memory) (a b : Nat) :
    Memory.lookup (m.filter (fun c => c.1 != a)) b = if b = a then none else Memory.lookup m b := by
  induction m with
  | nil => simp [Memory.lookup]
  | cons d m ih =>
    obtain ⟨d1, d2⟩ := d
    by_cases h : d1 = a <;> by_cases hb : b = d1 <;> simp_all [Memory.lookup]

theorem Memory.lookup_insert (m : Memory) (a b : Nat) (v : Byte) (h : ∀ c ∈ m, c.1 ≠ a) :
    Memory.lookup (Memory.insert (a, v) m) b = if b = a then some v else Memory.lookup m b := by
  induction m with
  | nil => simp [Memory.insert, Memory.lookup]
  | cons d m ih =>
    obtain ⟨d1, d2⟩ := d
    have hd : d1 ≠ a := h (d1, d2) (by simp)
    have ih := ih fun c hc => h c (by simp [hc])
    by_cases hlt : a < d1
    · simp [Memory.insert, hlt, Memory.lookup]
    · rw [Memory.insert, if_neg hlt, Memory.lookup, Memory.lookup]
      by_cases hb : b = d1
      · simp [hb, hd]
      · simp [hb, ih]

theorem Memory.mem_insert {c d : Host.Cell} {m : Memory} :
    c ∈ Memory.insert d m ↔ c = d ∨ c ∈ m := by
  induction m with
  | nil => simp [Memory.insert]
  | cons e m ih =>
    unfold Memory.insert
    split <;> simp_all; tauto

theorem Memory.sorted_insert {m : Memory} {d : Host.Cell} (hs : m.Pairwise fun c e => c.1 < e.1)
    (hd : ∀ c ∈ m, c.1 ≠ d.1) : (Memory.insert d m).Pairwise fun c e => c.1 < e.1 := by
  induction m with
  | nil => simp [Memory.insert]
  | cons e m ih =>
    rw [List.pairwise_cons] at hs
    have hne := hd e (by simp)
    by_cases h : d.1 < e.1
    · simp only [Memory.insert, h, if_true, List.pairwise_cons]
      exact ⟨fun c hc => by
        rcases List.mem_cons.1 hc with rfl | hc
        · exact h
        · exact h.trans (hs.1 c hc), hs.1, hs.2⟩
    · simp only [Memory.insert, h, if_false, List.pairwise_cons]
      refine ⟨fun c hc => ?_, ih hs.2 fun c hc => hd c (by simp [hc])⟩
      rcases Memory.mem_insert.1 hc with rfl | hc
      · omega
      · exact hs.1 c hc

/-! ## One byte -/

/-- A store keeps the canonical form. -/
theorem Memory.wf_store {cfg : Config} {m : Memory} (hm : Memory.wf cfg m) (a : Nat) (b : Byte)
    (ha : a < cfg.memSize) : Memory.wf cfg (Memory.store cfg m a b) := by
  obtain ⟨hs, hc⟩ := hm
  have hf := hs.filter fun c => c.1 != a
  unfold Memory.store
  split
  · exact ⟨hf, fun c h => hc c (List.mem_filter.1 h).1⟩
  · rename_i hb
    refine ⟨Memory.sorted_insert hf fun c h => by simpa using (List.mem_filter.1 h).2, fun c h => ?_⟩
    rcases Memory.mem_insert.1 h with rfl | h
    · exact ⟨ha, hb⟩
    · exact hc c (List.mem_filter.1 h).1

/-- A read after a store. -/
theorem Memory.read_store (cfg : Config) (m : Memory) (a c : Nat) (b : Byte) :
    Memory.read cfg (Memory.store cfg m a b) c = if c = a then b else Memory.read cfg m c := by
  unfold Memory.read Memory.store
  split
  · rw [Memory.lookup_filter]
    split <;> simp_all
  · rw [Memory.lookup_insert, Memory.lookup_filter]
    · split <;> simp_all
    · intro d hd
      simpa using (List.mem_filter.1 hd).2

/-- A byte that is found is listed. -/
theorem Memory.lookup_mem {m : Memory} {a : Nat} {b : Byte} (h : Memory.lookup m a = some b) :
    (a, b) ∈ m := by
  induction m with
  | nil => simp [Memory.lookup] at h
  | cons d m ih =>
    obtain ⟨d1, d2⟩ := d
    by_cases ha : a = d1 <;> simp_all [Memory.lookup]

theorem State.mod_lt (s : State) (a : Nat) : a % s.cfg.memSize < s.cfg.memSize :=
  Nat.mod_lt _ (Config.memSize_pos _)

theorem State.writeByte_wf {s : State} (h : Memory.wf s.cfg s.mem) (a : Nat) (b : Byte) :
    Memory.wf (s.writeByte a b).cfg (s.writeByte a b).mem := Memory.wf_store h _ _ (s.mod_lt a)

/-- One step of `writeBytes`. -/
theorem State.readByte_writeByte (s : State) (a c : Nat) (b : Byte) :
    (s.writeByte a b).readByte c =
      if c % s.cfg.memSize = a % s.cfg.memSize then b else s.readByte c :=
  Memory.read_store _ _ _ _ _

/-! ## Runs of bytes -/

/-- `writeBytes` changes the memory alone. -/
theorem State.writeBytes_eq (s : State) (a : Nat) (bs : List Byte) :
    s.writeBytes a bs = { s with mem := (s.writeBytes a bs).mem } := by
  induction bs generalizing s a with
  | nil => rfl
  | cons b bs ih =>
    rw [State.writeBytes, ih]
    rfl

@[simp] theorem State.writeBytes_cfg (s : State) (a : Nat) (bs : List Byte) : (s.writeBytes a bs).cfg = s.cfg := by
  rw [writeBytes_eq]

theorem State.writeBytes_wf {s : State} (h : Memory.wf s.cfg s.mem) (a : Nat) (bs : List Byte) :
    Memory.wf (s.writeBytes a bs).cfg (s.writeBytes a bs).mem := by
  induction bs generalizing s a with
  | nil => exact h
  | cons b bs ih => exact ih (State.writeByte_wf h a b) (a + 1)

/-- A byte outside the stored run reads as before. -/
theorem State.readByte_writeBytes_ne (s : State) (a : Nat) (bs : List Byte) (c : Nat)
    (h : ∀ k, k < bs.length → c % s.cfg.memSize ≠ (a + k) % s.cfg.memSize) :
    (s.writeBytes a bs).readByte c = s.readByte c := by
  induction bs generalizing s a with
  | nil => rfl
  | cons b bs ih =>
    rw [State.writeBytes, ih, State.readByte_writeByte, if_neg (by simpa using h 0 (by simp))]
    intro k hk
    rw [State.writeByte_cfg, Nat.add_assoc, Nat.add_comm 1]
    exact h (k + 1) (by simpa using hk)

/-- Two addresses less than MEM_SIZE apart are different bytes. -/
theorem mod_ne_of_lt_add {m a k : Nat} (hk : 0 < k) (hm : k < m) : a % m ≠ (a + k) % m := by
  intro h
  have h' : (a + k) % m = (a + 0) % m := by simpa using h.symm
  have := Nat.ModEq.add_left_cancel' a h'
  rw [Nat.ModEq, Nat.mod_eq_of_lt hm, Nat.zero_mod] at this
  omega

/-- A stored byte reads as stored, when the run is no longer than the memory. -/
theorem State.readByte_writeBytes (s : State) (a : Nat) (bs : List Byte) (k : Nat) (hk : k < bs.length)
    (hl : bs.length ≤ s.cfg.memSize) : (s.writeBytes a bs).readByte (a + k) = bs[k] := by
  induction bs generalizing s a k with
  | nil => simp at hk
  | cons b bs ih =>
    simp only [List.length_cons] at hk hl
    rw [State.writeBytes]
    cases k with
    | zero =>
      rw [State.readByte_writeBytes_ne, State.readByte_writeByte]
      · simp
      · intro j hj
        rw [State.writeByte_cfg, Nat.add_zero, Nat.add_assoc]
        exact mod_ne_of_lt_add (by omega) (by omega)
    | succ k =>
      rw [show a + (k + 1) = a + 1 + k by omega,
        ih (s.writeByte a b) (a + 1) k (by omega) (by simpa using by omega)]
      rfl

/-- `readBytes` in closed form. -/
theorem State.length_readBytes (s : State) (a n : Nat) : (s.readBytes a n).length = n := by
  simp [State.readBytes]

theorem State.getElem_readBytes (s : State) (a n k : Nat) (h : k < (s.readBytes a n).length) :
    (s.readBytes a n)[k] = s.readByte (a + k) := by
  simp [State.readBytes]

end Sys2Proof.Machine
end

