-- ==== Sys2Proof/Laws/Boot.lean ====
section
/-! SUPPORT. The state after boot, said once: reset's fields, and what memory holds. -/

namespace Sys2Proof.Machine

/-- The part of a program image that is loaded. -/
def loadedImage (cfg : Config) (program : List Byte) : List Byte :=
  program.take (cfg.memSize - programStart)

theorem length_loadedImage (cfg : Config) (program : List Byte) :
    (loadedImage cfg program).length = min (cfg.memSize - 0x200) program.length := by
  rw [loadedImage, List.length_take]; rfl

/-- Boot is one run of bytes stored over the reset state. -/
theorem boot_eq (cfg : Config) (program : List Byte) :
    boot cfg program =
      ({ State.reset with cfg := cfg } : State).writeBytes programStart (loadedImage cfg program) := by
  simp only [boot, State.loadProgram, loadedImage]

/-- Boot leaves every field but the memory and the parameters as reset does. -/
theorem boot_fields (cfg : Config) (program : List Byte) :
    boot cfg program = { State.reset with cfg := cfg, mem := (boot cfg program).mem } := by
  rw [boot_eq]
  exact State.writeBytes_eq _ _ _

theorem boot_cfg (cfg : Config) (program : List Byte) : (boot cfg program).cfg = cfg := by
  rw [boot_fields]

/-- The memory after boot is in canonical form. -/
theorem boot_wf (cfg : Config) (program : List Byte) :
    Memory.wf (boot cfg program).cfg (boot cfg program).mem := by
  rw [boot_eq]
  refine State.writeBytes_wf ?_ _ _
  exact ⟨List.Pairwise.nil, fun c hc => by cases hc⟩

/-- A byte of the image. -/
theorem boot_readByte_image (cfg : Config) (program : List Byte) (j : Nat) (h : j < program.length)
    (hj : 0x200 + j < cfg.memSize) : (boot cfg program).readByte (0x200 + j) = program[j] := by
  have hl := length_loadedImage cfg program
  have h1 : j < (loadedImage cfg program).length := by omega
  have h2 : (loadedImage cfg program).length ≤ cfg.memSize := by omega
  have h3 := State.readByte_writeBytes ({ State.reset with cfg := cfg } : State) programStart _ j h1 h2
  rw [boot_eq]
  exact h3.trans List.getElem_take

/-- A byte outside the image. -/
theorem boot_readByte_outside (cfg : Config) (program : List Byte) (a : Nat) (ha : a < cfg.memSize)
    (h : a < 0x200 ∨ 0x200 + (loadedImage cfg program).length ≤ a) :
    (boot cfg program).readByte a = resetByte cfg a := by
  have hl := length_loadedImage cfg program
  have hlow := cfg.memSize_low
  rw [boot_eq, State.readByte_writeBytes_ne]
  · show Memory.read cfg [] (a % cfg.memSize) = _
    rw [Nat.mod_eq_of_lt ha]; rfl
  · intro k hk
    change a % cfg.memSize ≠ (0x200 + k) % cfg.memSize
    rw [Nat.mod_eq_of_lt ha, Nat.mod_eq_of_lt (by omega)]
    omega

end Sys2Proof.Machine
end

