-- ==== Sys2Proof/Laws/Decode.lean ====
section
/-! SUPPORT. The fields of a word written by the encoder's formats. -/

namespace Sys2Proof

/-- A field of a concatenation, bit by bit. -/
theorem extract_append {m n k l : Nat} (a : BitVec m) (b : BitVec n) (h : n ≤ k) :
    (a ++ b).extractLsb' k l = a.extractLsb' (k - n) l := by
  apply BitVec.eq_of_getLsbD_eq
  intro i _
  simp only [BitVec.getLsbD_extractLsb', BitVec.getLsbD_append]
  rw [if_neg (by omega), show k + i - n = k - n + i by omega]

theorem extract_append_low {m n k l : Nat} (a : BitVec m) (b : BitVec n) (h : k + l ≤ n) :
    (a ++ b).extractLsb' k l = b.extractLsb' k l := by
  apply BitVec.eq_of_getLsbD_eq
  intro i hi
  simp only [BitVec.getLsbD_extractLsb', BitVec.getLsbD_append]
  rw [if_pos (by omega)]

theorem extract_whole {n : Nat} (a : BitVec n) : a.extractLsb' 0 n = a := by simp

section

variable (c : Nibble) (nnn : Addr12) (x y n : Nibble) (kk : Byte)

@[simp] theorem n0_wordNNN : n0 (wordNNN c nnn) = c := by
  rw [n0, wordNNN, extract_append _ _ (by omega)]; exact extract_whole c

@[simp] theorem nnn_wordNNN : nnnField (wordNNN c nnn) = nnn := by
  rw [nnnField, wordNNN, extract_append_low _ _ (by omega)]; exact extract_whole nnn

@[simp] theorem n0_wordXKK : n0 (wordXKK c x kk) = c := by
  rw [n0, wordXKK, extract_append _ _ (by omega), extract_append _ _ (by omega)]; exact extract_whole c

@[simp] theorem n1_wordXKK : n1 (wordXKK c x kk) = x := by
  rw [n1, wordXKK, extract_append _ _ (by omega), extract_append_low _ _ (by omega)]; exact extract_whole x

@[simp] theorem kk_wordXKK : kkField (wordXKK c x kk) = kk := by
  rw [kkField, wordXKK, extract_append_low _ _ (by omega)]; exact extract_whole kk

@[simp] theorem n0_wordXYN : n0 (wordXYN c x y n) = c := by
  rw [n0, wordXYN, extract_append _ _ (by omega), extract_append _ _ (by omega), extract_append _ _ (by omega)]
  exact extract_whole c

@[simp] theorem n1_wordXYN : n1 (wordXYN c x y n) = x := by
  rw [n1, wordXYN, extract_append _ _ (by omega), extract_append _ _ (by omega),
    extract_append_low _ _ (by omega)]
  exact extract_whole x

@[simp] theorem n2_wordXYN : n2 (wordXYN c x y n) = y := by
  rw [n2, wordXYN, extract_append _ _ (by omega), extract_append_low _ _ (by omega)]; exact extract_whole y

@[simp] theorem n3_wordXYN : n3 (wordXYN c x y n) = n := by
  rw [n3, wordXYN, extract_append_low _ _ (by omega)]; exact extract_whole n

end

/-- A word is the concatenation of its fields, in each format. -/
theorem wordNNN_fields (w : Word) : wordNNN (n0 w) (nnnField w) = w := by
  apply BitVec.eq_of_getLsbD_eq
  intro i hi
  simp only [wordNNN, n0, nnnField, BitVec.getLsbD_append, BitVec.getLsbD_extractLsb']
  split
  · simp [*]
  · rw [show 12 + (i - 12) = i by omega]; simp; omega

theorem wordXKK_fields (w : Word) : wordXKK (n0 w) (n1 w) (kkField w) = w := by
  apply BitVec.eq_of_getLsbD_eq
  intro i hi
  simp only [wordXKK, n0, n1, kkField, BitVec.getLsbD_append, BitVec.getLsbD_extractLsb']
  split
  · simp [*]
  · split
    · rw [show 8 + (i - 8) = i by omega]; simp [*]
    · rw [show 12 + (i - 8 - 4) = i by omega]; simp; omega

theorem wordXYN_fields (w : Word) : wordXYN (n0 w) (n1 w) (n2 w) (n3 w) = w := by
  apply BitVec.eq_of_getLsbD_eq
  intro i hi
  simp only [wordXYN, n0, n1, n2, n3, BitVec.getLsbD_append, BitVec.getLsbD_extractLsb']
  split
  · simp [*]
  · split
    · rw [show 4 + (i - 4) = i by omega]; simp [*]
    · split
      · rw [show 8 + (i - 4 - 4) = i by omega]; simp [*]
      · rw [show 12 + (i - 4 - 4 - 4) = i by omega]; simp; omega

/-! Each part of the decoder gives a well-formed instruction that encodes to the same word. -/

theorem sub8_cases : ∀ s : Nibble, s ∈ [0x0#4, 0x1#4, 0x2#4, 0x3#4, 0x4#4, 0x5#4, 0x6#4, 0x7#4, 0xE#4] ∨
    s ∈ [0x8#4, 0x9#4, 0xA#4, 0xB#4, 0xC#4, 0xD#4, 0xF#4] := by decide

theorem decode8_spec (x y : RegIx) (s : Nibble) :
    WellFormed (decode8 x y s) ∧ encode (decode8 x y s) = wordXYN 0x8 x y s := by
  unfold decode8
  split
  case h_10 => exact ⟨by rcases sub8_cases s with h | h <;> simp_all [WellFormed, Instr.wellFormed], rfl⟩
  all_goals exact ⟨rfl, rfl⟩

theorem decodeE_spec (x : RegIx) (s : Byte) :
    WellFormed (decodeE x s) ∧ encode (decodeE x s) = wordXKK 0xE x s := by
  unfold decodeE
  split
  case h_3 => exact ⟨by simp_all [WellFormed, Instr.wellFormed], rfl⟩
  all_goals exact ⟨rfl, rfl⟩

theorem decodeF_spec (x : RegIx) (s : Byte) :
    WellFormed (decodeF x s) ∧ encode (decodeF x s) = wordXKK 0xF x s := by
  unfold decodeF
  split
  case h_10 => exact ⟨by simp_all [WellFormed, Instr.wellFormed], rfl⟩
  all_goals exact ⟨rfl, rfl⟩

theorem decode0_spec (w : Word) (h : n0 w = 0x0#4) :
    WellFormed (decode0 w) ∧ encode (decode0 w) = w := by
  have hw : wordNNN 0x0 (nnnField w) = w := by rw [← wordNNN_fields w, h]; simp
  unfold decode0
  split
  · subst_vars; decide
  · split
    · subst_vars; decide
    · next h1 h2 =>
      refine ⟨?_, hw⟩
      simp only [WellFormed, Instr.wellFormed, Bool.and_eq_true, bne_iff_ne]
      exact ⟨fun e => h1 (by rw [← hw, e]; decide), fun e => h2 (by rw [← hw, e]; decide)⟩

theorem nibble_cases : ∀ s : Nibble, s ∈ [0x0#4, 0x1#4, 0x2#4, 0x3#4, 0x4#4, 0x5#4, 0x6#4, 0x7#4, 0x8#4, 0x9#4,
    0xA#4, 0xB#4, 0xC#4, 0xD#4, 0xE#4] ∨ s = 0xF#4 := by decide

/-- The bytes of a word make it up again. -/
theorem wordOfBytes_bytesOfWord (w : Word) :
    wordOfBytes (w.extractLsb' 8 8) (w.extractLsb' 0 8) = w := by
  apply BitVec.eq_of_getLsbD_eq
  intro i hi
  simp only [wordOfBytes, BitVec.getLsbD_append, BitVec.getLsbD_extractLsb']
  split
  · simp [*]
  · rw [show 8 + (i - 8) = i by omega]; simp; omega

end Sys2Proof
end

