-- ==== Sys2Proof/Laws/Registers.lean ====
section
/-! SUPPORT. Registers, keys, the flag, the stack and the skip: what each shared operation does. -/

namespace Sys2Proof.Machine

theorem toNat_ne_of_ne {x y : BitVec 4} (h : y ≠ x) : y.toNat ≠ x.toNat := fun e => h (BitVec.eq_of_toNat_eq e)

/-- Reading a register after a write: the one register operation of every instruction. -/
theorem State.reg_setReg (s : State) (x r : RegIx) (b : Byte) :
    (s.setReg x b).reg r = if r = x then b else s.reg r := by
  unfold State.reg State.setReg
  split
  · next h => subst h; simp
  · next h => exact Vector.getElem_set_ne (by exact x.isLt) (by exact r.isLt) (toNat_ne_of_ne h).symm

@[simp] theorem State.reg_setReg_same (s : State) (x : RegIx) (b : Byte) : (s.setReg x b).reg x = b := by
  simp [State.reg_setReg]

theorem State.reg_setReg_ne (s : State) {x r : RegIx} (b : Byte) (h : r ≠ x) :
    (s.setReg x b).reg r = s.reg r := by
  simp [State.reg_setReg, h]

theorem State.reg_setFlag (s : State) (r : RegIx) (c : Bool) :
    (s.setFlag c).reg r = if r = vf then flagByte c else s.reg r := State.reg_setReg _ _ _ _

/-- Reading a key slot after a write. -/
theorem State.key_setKey (s : State) (k j : KeyCode) (c : KeyState) :
    (s.setKey k c).key j = if j = k then c else s.key j := by
  unfold State.key State.setKey
  split
  · next h => subst h; simp
  · next h => exact Vector.getElem_set_ne (by exact k.isLt) (by exact j.isLt) (toNat_ne_of_ne h).symm

/-- `setRegs` changes the registers alone. -/
theorem State.setRegs_eq (s : State) (k : Nat) (bs : List Byte) :
    s.setRegs k bs = { s with v := (s.setRegs k bs).v } := by
  induction bs generalizing s k with
  | nil => rfl
  | cons b bs ih =>
    rw [State.setRegs, ih]
    rfl

/-- A register outside the loaded run reads as before. -/
theorem State.reg_setRegs_ne (s : State) (k : Nat) (bs : List Byte) (r : RegIx)
    (h : r.toNat < k ∨ k + bs.length ≤ r.toNat) (hb : k + bs.length ≤ 16) :
    (s.setRegs k bs).reg r = s.reg r := by
  induction bs generalizing s k with
  | nil => rfl
  | cons b bs ih =>
    simp only [List.length_cons] at h hb
    rw [State.setRegs, ih _ _ (by omega) (by omega), State.reg_setReg_ne]
    intro e
    rw [e, BitVec.toNat_ofNat] at h
    omega

/-- A loaded register reads as loaded. -/
theorem State.reg_setRegs (s : State) (k : Nat) (bs : List Byte) (r : RegIx) (j : Nat) (hj : j < bs.length)
    (hr : r.toNat = k + j) (hb : k + bs.length ≤ 16) : (s.setRegs k bs).reg r = bs[j] := by
  induction bs generalizing s k j with
  | nil => simp at hj
  | cons b bs ih =>
    simp only [List.length_cons] at hj hb
    rw [State.setRegs]
    cases j with
    | zero =>
      rw [State.reg_setRegs_ne _ _ _ _ (by omega) (by omega)]
      have : r = BitVec.ofNat 4 k := BitVec.eq_of_toNat_eq (by simp; omega)
      simp [this]
    | succ j => simpa using ih _ (k + 1) j (by omega) (by omega) (by omega)

theorem State.length_regRun (s : State) (x : RegIx) : (s.regRun x).length = x.toNat + 1 := by
  simp [State.regRun]

theorem State.getElem_regRun (s : State) (x : RegIx) (k : Nat) (h : k < (s.regRun x).length) :
    (s.regRun x)[k] = s.reg (BitVec.ofNat 4 k) := by
  simp [State.regRun]

/-- Everything a push does. -/
theorem State.push_cases (s : State) (a : Word) :
    (s.sp.val < 16 ∧ s.push a = { s with
      stack := s.stack.set (Fin.ofNat 16 s.sp.val) a
      sp := Fin.ofNat 17 (s.sp.val + 1) }) ∨ (s.sp.val = 16 ∧ s.push a = s) := by
  unfold State.push
  split
  · next h => exact .inl ⟨h, rfl⟩
  · next h => exact .inr ⟨by omega, rfl⟩

/-- Everything a skip does. -/
theorem State.skipIf_eq (s : State) (c : Bool) :
    s.skipIf c = s.setPc (if c then s.pc + 4 else s.pc + 2) := by
  cases c <;> rfl

/-- The transitions of a poll change the key table alone. -/
theorem State.applyKeys_eq (s : State) (es : List KeyEvent) :
    s.applyKeys es = { s with keys := (s.applyKeys es).keys } := by
  unfold State.applyKeys
  induction es generalizing s with
  | nil => rfl
  | cons e es ih =>
    rw [List.foldl_cons, ih]
    rfl

end Sys2Proof.Machine
end

