-- ==== Sys2Proof/Laws/Draw.lean ====
section
/-! SUPPORT. The sprite loop of DXYN, pixel by pixel. -/

namespace Sys2Proof.Machine

/-- Reading a pixel after a flip. -/
theorem Framebuffer.pixel_flip (fb : Framebuffer) (row row' : Fin 32) (col col' : Fin 64) :
    Framebuffer.pixel (Framebuffer.flip fb row col) row' col' =
      (Framebuffer.pixel fb row' col').xor (decide (row' = row ∧ col' = col)) := by
  unfold Framebuffer.pixel Framebuffer.flip
  by_cases hr : row' = row
  · subst hr
    by_cases hc : col' = col
    · subst hc; simp
    · simp [hc, Vector.getElem_set_ne, Fin.val_ne_of_ne (Ne.symm hc)]
  · simp [hr, Vector.getElem_set_ne, Fin.val_ne_of_ne (Ne.symm hr)]

/-- The sprite row `b` at column `cx`, restricted to the column offsets `cs`, has a bit 1 on column
`col`. -/
def rowHas (cx : Nat) (b : Byte) (cs : List Nat) (col : Fin 64) : Bool :=
  cs.any fun c => b.getLsbD (7 - c) && decide (Fin.ofNat 64 (cx + c) = col)

/-- The sprite `bs` with its corner at row `cy` and column `cx` has a bit 1 on a pixel. -/
def spriteHas (cx cy : Nat) : List Byte → Fin 32 → Fin 64 → Bool
  | [], _, _ => false
  | b :: bs, row, col =>
    (decide (Fin.ofNat 32 cy = row) && rowHas cx b (List.range 8) col) || spriteHas cx (cy + 1) bs row col

theorem ofNat_add_ne {n x a b : Nat} [NeZero n] (h : a ≠ b) (ha : a < n) (hb : b < n) :
    Fin.ofNat n (x + a) ≠ Fin.ofNat n (x + b) := by
  intro e
  have := congrArg Fin.val e
  simp only [Fin.val_ofNat] at this
  have := Nat.ModEq.add_left_cancel' x this
  rw [Nat.ModEq, Nat.mod_eq_of_lt ha, Nat.mod_eq_of_lt hb] at this
  exact h this

/-- A column that the remaining offsets do not reach has no bit of theirs. -/
theorem rowHas_eq_false {cx c : Nat} {b : Byte} {cs : List Nat} (hc : c < 64) (hcs : ∀ d ∈ cs, d < 64)
    (hn : c ∉ cs) : rowHas cx b cs (Fin.ofNat 64 (cx + c)) = false := by
  rw [rowHas, List.any_eq_false]
  intro d hd
  have hne : d ≠ c := fun e => hn (e ▸ hd)
  simp only [decide_eq_false (ofNat_add_ne hne (hcs d hd) hc), Bool.and_false, not_false_eq_true, Bool.false_eq_true]

/-- One sprite row: the pixels of its row are XORed with its bits, and the collision is a bit 1 on a set
pixel. -/
theorem drawRow_spec (cx : Nat) (row : Fin 32) (b : Byte) (cs : List Nat) (hcs : ∀ c ∈ cs, c < 64)
    (hn : cs.Nodup) (acc : Framebuffer × Bool) :
    (∀ row' col, Framebuffer.pixel (drawRow cx row b cs acc).1 row' col =
      (Framebuffer.pixel acc.1 row' col).xor (decide (row' = row) && rowHas cx b cs col)) ∧
    ((drawRow cx row b cs acc).2 = true ↔ acc.2 = true ∨
      ∃ col, rowHas cx b cs col = true ∧ Framebuffer.pixel acc.1 row col = true) := by
  induction cs generalizing acc with
  | nil => simp [drawRow, rowHas]
  | cons c cs ih =>
    rw [List.nodup_cons] at hn
    have hc : c < 64 := hcs c (by simp)
    have hcs' : ∀ d ∈ cs, d < 64 := fun d hd => hcs d (by simp [hd])
    have hfresh := rowHas_eq_false (cx := cx) (b := b) hc hcs' hn.1
    by_cases hb : b.getLsbD (7 - c) = true
    · have hstep : drawRow cx row b (c :: cs) acc =
          drawRow cx row b cs (drawPixel row (Fin.ofNat 64 (cx + c)) acc) := by
        simp only [drawRow, List.foldl_cons, hb, if_true]
      have hhas : ∀ col, rowHas cx b (c :: cs) col =
          (decide (col = Fin.ofNat 64 (cx + c)) || rowHas cx b cs col) := by
        intro col; simp only [rowHas, List.any_cons, hb, Bool.true_and, eq_comm]
      obtain ⟨h1, h2⟩ := ih hcs' hn.2 (drawPixel row (Fin.ofNat 64 (cx + c)) acc)
      rw [hstep]
      generalize Fin.ofNat 64 (cx + c) = at_ at *
      refine ⟨fun row' col => ?_, ?_⟩
      · rw [h1, hhas]
        simp only [drawPixel, Framebuffer.pixel_flip]
        by_cases hr : row' = row <;> by_cases hcol : col = at_
        · subst hcol; simp [hr, hfresh]
        all_goals simp [hr, hcol]
      · rw [h2]
        simp only [drawPixel, Framebuffer.pixel_flip, Bool.or_eq_true, hhas]
        constructor
        · rintro ((h | h) | ⟨col, h, h'⟩)
          · exact .inl h
          · exact .inr ⟨_, by simp, h⟩
          · refine .inr ⟨col, .inr h, ?_⟩
            have : col ≠ at_ := by rintro rfl; simp [hfresh] at h
            simpa [this] using h'
        · rintro (h | ⟨col, h, h'⟩)
          · exact .inl (.inl h)
          · by_cases hcol : col = at_
            · subst hcol; exact .inl (.inr h')
            · exact .inr ⟨col, by simpa [hcol] using h, by simpa [hcol] using h'⟩
    · have hstep : drawRow cx row b (c :: cs) acc = drawRow cx row b cs acc := by
        simp only [drawRow, List.foldl_cons, hb, if_false, Bool.false_eq_true]
      have hhas : ∀ col, rowHas cx b (c :: cs) col = rowHas cx b cs col := by intro col; simp [rowHas, hb]
      simp only [hstep, hhas]
      exact ih hcs' hn.2 acc

/-- A row that the remaining sprite bytes do not reach has no bit of theirs. -/
theorem spriteHas_eq_false (cx cy k : Nat) (bs : List Byte) (col : Fin 64) (hk : 0 < k)
    (hl : k + bs.length ≤ 32) : spriteHas cx (cy + k) bs (Fin.ofNat 32 cy) col = false := by
  induction bs generalizing k with
  | nil => rfl
  | cons b bs ih =>
    simp only [List.length_cons] at hl
    have hne := ofNat_add_ne (n := 32) (x := cy) (a := k) (b := 0) (by omega) (by omega) (by omega)
    rw [spriteHas, Nat.add_assoc, ih (k + 1) (by omega) (by omega), decide_eq_false (by simpa using hne)]
    rfl

/-- The whole sprite: every pixel is XORed with its bit, and the collision is a bit 1 on a set pixel. -/
theorem drawSprite_spec (cx cy : Nat) (bs : List Byte) (hl : bs.length ≤ 32) (acc : Framebuffer × Bool) :
    (∀ row col, Framebuffer.pixel (drawSprite cx cy bs acc).1 row col =
      (Framebuffer.pixel acc.1 row col).xor (spriteHas cx cy bs row col)) ∧
    ((drawSprite cx cy bs acc).2 = true ↔ acc.2 = true ∨
      ∃ row col, spriteHas cx cy bs row col = true ∧ Framebuffer.pixel acc.1 row col = true) := by
  induction bs generalizing cy acc with
  | nil => simp [drawSprite, spriteHas]
  | cons b bs ih =>
    simp only [List.length_cons] at hl
    obtain ⟨r1, r2⟩ := drawRow_spec cx (Fin.ofNat 32 cy) b (List.range 8)
      (fun c hc => by have := List.mem_range.1 hc; omega) List.nodup_range acc
    obtain ⟨h1, h2⟩ := ih (cy + 1) (by omega) (drawRow cx (Fin.ofNat 32 cy) b (List.range 8) acc)
    have hfresh : ∀ col, spriteHas cx (cy + 1) bs (Fin.ofNat 32 cy) col = false :=
      fun col => spriteHas_eq_false cx cy 1 bs col (by omega) (by omega)
    rw [drawSprite]
    simp only [spriteHas]
    generalize Fin.ofNat 32 cy = top at *
    refine ⟨fun row col => ?_, ?_⟩
    · rw [h1, r1]
      by_cases hr : row = top
      · subst hr; simp [hfresh]
      · simp [hr, Ne.symm hr]
    · rw [h2, r2]
      simp only [ Bool.or_eq_true, Bool.and_eq_true, decide_eq_true_eq, r1]
      constructor
      · rintro ((h | ⟨col, h, h'⟩) | ⟨row, col, h, h'⟩)
        · exact .inl h
        · exact .inr ⟨_, col, .inl ⟨rfl, h⟩, h'⟩
        · have hr : row ≠ top := by rintro rfl; simp [hfresh] at h
          exact .inr ⟨row, col, .inr h, by simpa [hr] using h'⟩
      · rintro (h | ⟨row, col, ⟨rfl, h⟩ | h, h'⟩)
        · exact .inl (.inl h)
        · exact .inl (.inr ⟨col, h, h'⟩)
        · have hr : row ≠ top := by rintro rfl; simp [hfresh] at h
          exact .inr ⟨row, col, h, by simpa [hr] using h'⟩

end Sys2Proof.Machine
end

