-- ==== Sys2Proof/Laws/Shared.lean ====
section
/-! SUPPORT. One lemma per field for the updates built from others: runs of bytes and registers, key
transitions, the push, the skip and the draw. -/

namespace Sys2Proof.Machine

section

variable (s : State) (a : Nat) (bs : List Byte)

@[simp] theorem State.writeBytes_v : (s.writeBytes a bs).v = s.v := by rw [State.writeBytes_eq]
@[simp] theorem State.writeBytes_i : (s.writeBytes a bs).i = s.i := by rw [State.writeBytes_eq]
@[simp] theorem State.writeBytes_pc : (s.writeBytes a bs).pc = s.pc := by rw [State.writeBytes_eq]
@[simp] theorem State.writeBytes_stack : (s.writeBytes a bs).stack = s.stack := by rw [State.writeBytes_eq]
@[simp] theorem State.writeBytes_sp : (s.writeBytes a bs).sp = s.sp := by rw [State.writeBytes_eq]
@[simp] theorem State.writeBytes_dt : (s.writeBytes a bs).dt = s.dt := by rw [State.writeBytes_eq]
@[simp] theorem State.writeBytes_st : (s.writeBytes a bs).st = s.st := by rw [State.writeBytes_eq]
@[simp] theorem State.writeBytes_keys : (s.writeBytes a bs).keys = s.keys := by rw [State.writeBytes_eq]
@[simp] theorem State.writeBytes_fb : (s.writeBytes a bs).fb = s.fb := by rw [State.writeBytes_eq]
@[simp] theorem State.writeBytes_run : (s.writeBytes a bs).run = s.run := by rw [State.writeBytes_eq]
@[simp] theorem State.writeBytes_phase : (s.writeBytes a bs).phase = s.phase := by rw [State.writeBytes_eq]
@[simp] theorem State.writeBytes_slot : (s.writeBytes a bs).slot = s.slot := by rw [State.writeBytes_eq]
@[simp] theorem State.writeBytes_polls : (s.writeBytes a bs).polls = s.polls := by rw [State.writeBytes_eq]
@[simp] theorem State.writeBytes_waits : (s.writeBytes a bs).waits = s.waits := by rw [State.writeBytes_eq]
@[simp] theorem State.writeBytes_draws : (s.writeBytes a bs).draws = s.draws := by rw [State.writeBytes_eq]
@[simp] theorem State.writeBytes_display : (s.writeBytes a bs).display = s.display := by rw [State.writeBytes_eq]
@[simp] theorem State.writeBytes_presents : (s.writeBytes a bs).presents = s.presents := by rw [State.writeBytes_eq]
@[simp] theorem State.writeBytes_reg (r : RegIx) : (s.writeBytes a bs).reg r = s.reg r := by rw [State.writeBytes_eq]; rfl
@[simp] theorem State.writeBytes_key (j : KeyCode) : (s.writeBytes a bs).key j = s.key j := by rw [State.writeBytes_eq]; rfl
@[simp] theorem State.writeBytes_stackAt (j : Fin 16) : (s.writeBytes a bs).stackAt j = s.stackAt j := by rw [State.writeBytes_eq]; rfl

end

section

variable (s : State) (k : Nat) (bs : List Byte)

@[simp] theorem State.setRegs_i : (s.setRegs k bs).i = s.i := by rw [State.setRegs_eq]
@[simp] theorem State.setRegs_pc : (s.setRegs k bs).pc = s.pc := by rw [State.setRegs_eq]
@[simp] theorem State.setRegs_stack : (s.setRegs k bs).stack = s.stack := by rw [State.setRegs_eq]
@[simp] theorem State.setRegs_sp : (s.setRegs k bs).sp = s.sp := by rw [State.setRegs_eq]
@[simp] theorem State.setRegs_dt : (s.setRegs k bs).dt = s.dt := by rw [State.setRegs_eq]
@[simp] theorem State.setRegs_st : (s.setRegs k bs).st = s.st := by rw [State.setRegs_eq]
@[simp] theorem State.setRegs_keys : (s.setRegs k bs).keys = s.keys := by rw [State.setRegs_eq]
@[simp] theorem State.setRegs_fb : (s.setRegs k bs).fb = s.fb := by rw [State.setRegs_eq]
@[simp] theorem State.setRegs_mem : (s.setRegs k bs).mem = s.mem := by rw [State.setRegs_eq]
@[simp] theorem State.setRegs_run : (s.setRegs k bs).run = s.run := by rw [State.setRegs_eq]
@[simp] theorem State.setRegs_phase : (s.setRegs k bs).phase = s.phase := by rw [State.setRegs_eq]
@[simp] theorem State.setRegs_slot : (s.setRegs k bs).slot = s.slot := by rw [State.setRegs_eq]
@[simp] theorem State.setRegs_cfg : (s.setRegs k bs).cfg = s.cfg := by rw [State.setRegs_eq]
@[simp] theorem State.setRegs_polls : (s.setRegs k bs).polls = s.polls := by rw [State.setRegs_eq]
@[simp] theorem State.setRegs_waits : (s.setRegs k bs).waits = s.waits := by rw [State.setRegs_eq]
@[simp] theorem State.setRegs_draws : (s.setRegs k bs).draws = s.draws := by rw [State.setRegs_eq]
@[simp] theorem State.setRegs_display : (s.setRegs k bs).display = s.display := by rw [State.setRegs_eq]
@[simp] theorem State.setRegs_presents : (s.setRegs k bs).presents = s.presents := by rw [State.setRegs_eq]
@[simp] theorem State.setRegs_key (j : KeyCode) : (s.setRegs k bs).key j = s.key j := by rw [State.setRegs_eq]; rfl
@[simp] theorem State.setRegs_readByte (p : Nat) : (s.setRegs k bs).readByte p = s.readByte p := by rw [State.setRegs_eq]; rfl
@[simp] theorem State.setRegs_stackAt (j : Fin 16) : (s.setRegs k bs).stackAt j = s.stackAt j := by rw [State.setRegs_eq]; rfl

end

section

variable (s : State) (es : List KeyEvent)

@[simp] theorem State.applyKeys_v : (s.applyKeys es).v = s.v := by rw [State.applyKeys_eq]
@[simp] theorem State.applyKeys_i : (s.applyKeys es).i = s.i := by rw [State.applyKeys_eq]
@[simp] theorem State.applyKeys_pc : (s.applyKeys es).pc = s.pc := by rw [State.applyKeys_eq]
@[simp] theorem State.applyKeys_stack : (s.applyKeys es).stack = s.stack := by rw [State.applyKeys_eq]
@[simp] theorem State.applyKeys_sp : (s.applyKeys es).sp = s.sp := by rw [State.applyKeys_eq]
@[simp] theorem State.applyKeys_dt : (s.applyKeys es).dt = s.dt := by rw [State.applyKeys_eq]
@[simp] theorem State.applyKeys_st : (s.applyKeys es).st = s.st := by rw [State.applyKeys_eq]
@[simp] theorem State.applyKeys_fb : (s.applyKeys es).fb = s.fb := by rw [State.applyKeys_eq]
@[simp] theorem State.applyKeys_mem : (s.applyKeys es).mem = s.mem := by rw [State.applyKeys_eq]
@[simp] theorem State.applyKeys_run : (s.applyKeys es).run = s.run := by rw [State.applyKeys_eq]
@[simp] theorem State.applyKeys_phase : (s.applyKeys es).phase = s.phase := by rw [State.applyKeys_eq]
@[simp] theorem State.applyKeys_slot : (s.applyKeys es).slot = s.slot := by rw [State.applyKeys_eq]
@[simp] theorem State.applyKeys_cfg : (s.applyKeys es).cfg = s.cfg := by rw [State.applyKeys_eq]
@[simp] theorem State.applyKeys_polls : (s.applyKeys es).polls = s.polls := by rw [State.applyKeys_eq]
@[simp] theorem State.applyKeys_waits : (s.applyKeys es).waits = s.waits := by rw [State.applyKeys_eq]
@[simp] theorem State.applyKeys_draws : (s.applyKeys es).draws = s.draws := by rw [State.applyKeys_eq]
@[simp] theorem State.applyKeys_display : (s.applyKeys es).display = s.display := by rw [State.applyKeys_eq]
@[simp] theorem State.applyKeys_presents : (s.applyKeys es).presents = s.presents := by rw [State.applyKeys_eq]
@[simp] theorem State.applyKeys_reg (r : RegIx) : (s.applyKeys es).reg r = s.reg r := by rw [State.applyKeys_eq]; rfl
@[simp] theorem State.applyKeys_readByte (p : Nat) : (s.applyKeys es).readByte p = s.readByte p := by rw [State.applyKeys_eq]; rfl
@[simp] theorem State.applyKeys_stackAt (j : Fin 16) : (s.applyKeys es).stackAt j = s.stackAt j := by rw [State.applyKeys_eq]; rfl

end

section

variable (s : State) (a : Word)

@[simp] theorem State.push_v : (s.push a).v = s.v := by rcases s.push_cases a with ⟨_, h⟩ | ⟨_, h⟩ <;> rw [h]
@[simp] theorem State.push_i : (s.push a).i = s.i := by rcases s.push_cases a with ⟨_, h⟩ | ⟨_, h⟩ <;> rw [h]
@[simp] theorem State.push_pc : (s.push a).pc = s.pc := by rcases s.push_cases a with ⟨_, h⟩ | ⟨_, h⟩ <;> rw [h]
@[simp] theorem State.push_dt : (s.push a).dt = s.dt := by rcases s.push_cases a with ⟨_, h⟩ | ⟨_, h⟩ <;> rw [h]
@[simp] theorem State.push_st : (s.push a).st = s.st := by rcases s.push_cases a with ⟨_, h⟩ | ⟨_, h⟩ <;> rw [h]
@[simp] theorem State.push_keys : (s.push a).keys = s.keys := by rcases s.push_cases a with ⟨_, h⟩ | ⟨_, h⟩ <;> rw [h]
@[simp] theorem State.push_fb : (s.push a).fb = s.fb := by rcases s.push_cases a with ⟨_, h⟩ | ⟨_, h⟩ <;> rw [h]
@[simp] theorem State.push_mem : (s.push a).mem = s.mem := by rcases s.push_cases a with ⟨_, h⟩ | ⟨_, h⟩ <;> rw [h]
@[simp] theorem State.push_run : (s.push a).run = s.run := by rcases s.push_cases a with ⟨_, h⟩ | ⟨_, h⟩ <;> rw [h]
@[simp] theorem State.push_phase : (s.push a).phase = s.phase := by rcases s.push_cases a with ⟨_, h⟩ | ⟨_, h⟩ <;> rw [h]
@[simp] theorem State.push_slot : (s.push a).slot = s.slot := by rcases s.push_cases a with ⟨_, h⟩ | ⟨_, h⟩ <;> rw [h]
@[simp] theorem State.push_cfg : (s.push a).cfg = s.cfg := by rcases s.push_cases a with ⟨_, h⟩ | ⟨_, h⟩ <;> rw [h]
@[simp] theorem State.push_polls : (s.push a).polls = s.polls := by rcases s.push_cases a with ⟨_, h⟩ | ⟨_, h⟩ <;> rw [h]
@[simp] theorem State.push_waits : (s.push a).waits = s.waits := by rcases s.push_cases a with ⟨_, h⟩ | ⟨_, h⟩ <;> rw [h]
@[simp] theorem State.push_draws : (s.push a).draws = s.draws := by rcases s.push_cases a with ⟨_, h⟩ | ⟨_, h⟩ <;> rw [h]
@[simp] theorem State.push_display : (s.push a).display = s.display := by rcases s.push_cases a with ⟨_, h⟩ | ⟨_, h⟩ <;> rw [h]
@[simp] theorem State.push_presents : (s.push a).presents = s.presents := by rcases s.push_cases a with ⟨_, h⟩ | ⟨_, h⟩ <;> rw [h]
@[simp] theorem State.push_reg (r : RegIx) : (s.push a).reg r = s.reg r := by
  rcases s.push_cases a with ⟨_, h⟩ | ⟨_, h⟩
  · rw [h]; rfl
  · rw [h]
@[simp] theorem State.push_key (j : KeyCode) : (s.push a).key j = s.key j := by
  rcases s.push_cases a with ⟨_, h⟩ | ⟨_, h⟩
  · rw [h]; rfl
  · rw [h]
@[simp] theorem State.push_readByte (p : Nat) : (s.push a).readByte p = s.readByte p := by
  rcases s.push_cases a with ⟨_, h⟩ | ⟨_, h⟩
  · rw [h]; rfl
  · rw [h]

end

section

variable (s : State) (c : Bool)

@[simp] theorem State.skipIf_v : (s.skipIf c).v = s.v := by rw [State.skipIf_eq]; rfl
@[simp] theorem State.skipIf_i : (s.skipIf c).i = s.i := by rw [State.skipIf_eq]; rfl
@[simp] theorem State.skipIf_stack : (s.skipIf c).stack = s.stack := by rw [State.skipIf_eq]; rfl
@[simp] theorem State.skipIf_sp : (s.skipIf c).sp = s.sp := by rw [State.skipIf_eq]; rfl
@[simp] theorem State.skipIf_dt : (s.skipIf c).dt = s.dt := by rw [State.skipIf_eq]; rfl
@[simp] theorem State.skipIf_st : (s.skipIf c).st = s.st := by rw [State.skipIf_eq]; rfl
@[simp] theorem State.skipIf_keys : (s.skipIf c).keys = s.keys := by rw [State.skipIf_eq]; rfl
@[simp] theorem State.skipIf_fb : (s.skipIf c).fb = s.fb := by rw [State.skipIf_eq]; rfl
@[simp] theorem State.skipIf_mem : (s.skipIf c).mem = s.mem := by rw [State.skipIf_eq]; rfl
@[simp] theorem State.skipIf_run : (s.skipIf c).run = s.run := by rw [State.skipIf_eq]; rfl
@[simp] theorem State.skipIf_phase : (s.skipIf c).phase = s.phase := by rw [State.skipIf_eq]; rfl
@[simp] theorem State.skipIf_slot : (s.skipIf c).slot = s.slot := by rw [State.skipIf_eq]; rfl
@[simp] theorem State.skipIf_cfg : (s.skipIf c).cfg = s.cfg := by rw [State.skipIf_eq]; rfl
@[simp] theorem State.skipIf_polls : (s.skipIf c).polls = s.polls := by rw [State.skipIf_eq]; rfl
@[simp] theorem State.skipIf_waits : (s.skipIf c).waits = s.waits := by rw [State.skipIf_eq]; rfl
@[simp] theorem State.skipIf_draws : (s.skipIf c).draws = s.draws := by rw [State.skipIf_eq]; rfl
@[simp] theorem State.skipIf_display : (s.skipIf c).display = s.display := by rw [State.skipIf_eq]; rfl
@[simp] theorem State.skipIf_presents : (s.skipIf c).presents = s.presents := by rw [State.skipIf_eq]; rfl
@[simp] theorem State.skipIf_reg (r : RegIx) : (s.skipIf c).reg r = s.reg r := by rw [State.skipIf_eq]; rfl
@[simp] theorem State.skipIf_key (j : KeyCode) : (s.skipIf c).key j = s.key j := by rw [State.skipIf_eq]; rfl
@[simp] theorem State.skipIf_readByte (p : Nat) : (s.skipIf c).readByte p = s.readByte p := by rw [State.skipIf_eq]; rfl
@[simp] theorem State.skipIf_stackAt (j : Fin 16) : (s.skipIf c).stackAt j = s.stackAt j := by rw [State.skipIf_eq]; rfl
@[simp] theorem State.skipIf_pc : (s.skipIf c).pc = if c then s.pc + 4 else s.pc + 2 := by
  rw [State.skipIf_eq]; rfl

end

section

variable (s : State)

@[simp] theorem State.draw_v : s.draw.2.v = s.v := rfl
@[simp] theorem State.draw_i : s.draw.2.i = s.i := rfl
@[simp] theorem State.draw_pc : s.draw.2.pc = s.pc := rfl
@[simp] theorem State.draw_stack : s.draw.2.stack = s.stack := rfl
@[simp] theorem State.draw_sp : s.draw.2.sp = s.sp := rfl
@[simp] theorem State.draw_dt : s.draw.2.dt = s.dt := rfl
@[simp] theorem State.draw_st : s.draw.2.st = s.st := rfl
@[simp] theorem State.draw_keys : s.draw.2.keys = s.keys := rfl
@[simp] theorem State.draw_fb : s.draw.2.fb = s.fb := rfl
@[simp] theorem State.draw_mem : s.draw.2.mem = s.mem := rfl
@[simp] theorem State.draw_run : s.draw.2.run = s.run := rfl
@[simp] theorem State.draw_phase : s.draw.2.phase = s.phase := rfl
@[simp] theorem State.draw_slot : s.draw.2.slot = s.slot := rfl
@[simp] theorem State.draw_cfg : s.draw.2.cfg = s.cfg := rfl
@[simp] theorem State.draw_polls : s.draw.2.polls = s.polls := rfl
@[simp] theorem State.draw_waits : s.draw.2.waits = s.waits := rfl
@[simp] theorem State.draw_draws : s.draw.2.draws = s.draws + 1 := rfl
@[simp] theorem State.draw_display : s.draw.2.display = s.display := rfl
@[simp] theorem State.draw_presents : s.draw.2.presents = s.presents := rfl
@[simp] theorem State.draw_reg (r : RegIx) : s.draw.2.reg r = s.reg r := rfl
@[simp] theorem State.draw_key (j : KeyCode) : s.draw.2.key j = s.key j := rfl
@[simp] theorem State.draw_readByte (p : Nat) : s.draw.2.readByte p = s.readByte p := rfl
@[simp] theorem State.draw_stackAt (j : Fin 16) : s.draw.2.stackAt j = s.stackAt j := rfl

end

end Sys2Proof.Machine
end

