-- ==== Sys2Proof/Laws/Exec.lean ====
section
/-! SUPPORT. What holds of exec whatever the instruction. -/

namespace Sys2Proof.Machine

/-- No instruction touches the loop's hidden state or the parameters. -/
theorem exec_loop {i : Instr} {s t : State} (h : exec i s = .next t) :
    t.slot = s.slot ∧ t.phase = s.phase ∧ t.cfg = s.cfg := by
  cases i
  all_goals
    cases h
    first | (split <;> simp) | simp

/-- Only FX0A touches RUN. -/
theorem exec_run {i : Instr} {s t : State} (h : exec i s = .next t) :
    t.run = s.run ∨ ∃ x, i = .ldVxK x ∧ t.run = .waiting x := by
  cases i
  case ldVxK x => cases h; exact .inr ⟨x, rfl, rfl⟩
  all_goals
    left; cases h
    first | rfl | (simp; done) | (split <;> simp)

/-- Every instruction keeps the memory's canonical form. -/
theorem exec_wf {i : Instr} {s t : State} (h : exec i s = .next t) (hw : Memory.wf s.cfg s.mem) :
    Memory.wf t.cfg t.mem := by
  cases i
  case ldB x => cases h; exact State.writeBytes_wf hw _ _
  case ldMemVx x => cases h; exact State.writeBytes_wf hw _ _
  all_goals
    cases h
    first | exact hw | (split <;> simpa using hw) | simpa using hw

end Sys2Proof.Machine
end

