-- ==== Sys2Proof/Laws/PerInstr.lean ====
section
/-! SUPPORT. Statements for every instruction, one lemma per constructor (LAWS.json). -/

namespace Sys2Proof.Laws.EncodeRoundTrip

/-- Decoding the word of a well-formed instruction gives the instruction back. -/
def Statement (i : Instr) : Prop := WellFormed i → decode (encode i) = i

theorem cls : Statement .cls := fun _ => by decide

theorem ret : Statement .ret := fun _ => by decide

theorem sys (nnn : Addr12) : Statement (.sys nnn) := fun h => by
  have hne : nnn ≠ 0x0E0#12 ∧ nnn ≠ 0x0EE#12 := by simpa [WellFormed, Instr.wellFormed] using h
  have h1 : wordNNN 0x0#4 nnn ≠ 0x00E0#16 := fun e => hne.1 (by rw [← nnn_wordNNN 0x0#4 nnn, e]; decide)
  have h2 : wordNNN 0x0#4 nnn ≠ 0x00EE#16 := fun e => hne.2 (by rw [← nnn_wordNNN 0x0#4 nnn, e]; decide)
  simp [decode, encode, decode0, h1, h2]

theorem jp (nnn : Addr12) : Statement (.jp nnn) := fun _ => by simp [decode, encode]

theorem call (nnn : Addr12) : Statement (.call nnn) := fun _ => by simp [decode, encode]

theorem seImm (x : RegIx) (kk : Byte) : Statement (.seImm x kk) := fun _ => by simp [decode, encode]

theorem sneImm (x : RegIx) (kk : Byte) : Statement (.sneImm x kk) := fun _ => by simp [decode, encode]

theorem seReg (x y : RegIx) (ignored : Nibble) : Statement (.seReg x y ignored) := fun _ => by simp [decode, encode]

theorem ldImm (x : RegIx) (kk : Byte) : Statement (.ldImm x kk) := fun _ => by simp [decode, encode]

theorem addImm (x : RegIx) (kk : Byte) : Statement (.addImm x kk) := fun _ => by simp [decode, encode]

theorem mov (x y : RegIx) : Statement (.mov x y) := fun _ => by simp [decode, encode, decode8]

theorem orReg (x y : RegIx) : Statement (.orReg x y) := fun _ => by simp [decode, encode, decode8]

theorem andReg (x y : RegIx) : Statement (.andReg x y) := fun _ => by simp [decode, encode, decode8]

theorem xorReg (x y : RegIx) : Statement (.xorReg x y) := fun _ => by simp [decode, encode, decode8]

theorem addReg (x y : RegIx) : Statement (.addReg x y) := fun _ => by simp [decode, encode, decode8]

theorem subReg (x y : RegIx) : Statement (.subReg x y) := fun _ => by simp [decode, encode, decode8]

theorem shr (x y : RegIx) : Statement (.shr x y) := fun _ => by simp [decode, encode, decode8]

theorem subn (x y : RegIx) : Statement (.subn x y) := fun _ => by simp [decode, encode, decode8]

theorem shl (x y : RegIx) : Statement (.shl x y) := fun _ => by simp [decode, encode, decode8]

theorem nop8 (x y : RegIx) (s : Nibble) : Statement (.nop8 x y s) := fun h => by
  simp only [WellFormed, Instr.wellFormed, List.contains_iff_mem] at h
  fin_cases h <;> simp [decode, encode, decode8]

theorem sneReg (x y : RegIx) (ignored : Nibble) : Statement (.sneReg x y ignored) := fun _ => by simp [decode, encode]

theorem ldI (nnn : Addr12) : Statement (.ldI nnn) := fun _ => by simp [decode, encode]

theorem jpV0 (nnn : Addr12) : Statement (.jpV0 nnn) := fun _ => by simp [decode, encode]

theorem rnd (x : RegIx) (kk : Byte) : Statement (.rnd x kk) := fun _ => by simp [decode, encode]

theorem drw (x y : RegIx) (n : Nibble) : Statement (.drw x y n) := fun _ => by simp [decode, encode]

theorem skp (x : RegIx) : Statement (.skp x) := fun _ => by simp [decode, encode, decodeE]

theorem sknp (x : RegIx) : Statement (.sknp x) := fun _ => by simp [decode, encode, decodeE]

theorem nopE (x : RegIx) (s : Byte) : Statement (.nopE x s) := fun h => by
  simp only [WellFormed, Instr.wellFormed, Bool.not_eq_true', List.contains_eq_mem, List.mem_cons,
    List.not_mem_nil, decide_eq_false_iff_not, not_or] at h
  simp only [decode, encode, n0_wordXKK, n1_wordXKK, kk_wordXKK, decodeE]
  split <;> simp_all

theorem ldVxDt (x : RegIx) : Statement (.ldVxDt x) := fun _ => by simp [decode, encode, decodeF]

theorem ldVxK (x : RegIx) : Statement (.ldVxK x) := fun _ => by simp [decode, encode, decodeF]

theorem ldDtVx (x : RegIx) : Statement (.ldDtVx x) := fun _ => by simp [decode, encode, decodeF]

theorem ldStVx (x : RegIx) : Statement (.ldStVx x) := fun _ => by simp [decode, encode, decodeF]

theorem addI (x : RegIx) : Statement (.addI x) := fun _ => by simp [decode, encode, decodeF]

theorem ldF (x : RegIx) : Statement (.ldF x) := fun _ => by simp [decode, encode, decodeF]

theorem ldB (x : RegIx) : Statement (.ldB x) := fun _ => by simp [decode, encode, decodeF]

theorem ldMemVx (x : RegIx) : Statement (.ldMemVx x) := fun _ => by simp [decode, encode, decodeF]

theorem ldVxMem (x : RegIx) : Statement (.ldVxMem x) := fun _ => by simp [decode, encode, decodeF]

theorem nopF (x : RegIx) (s : Byte) : Statement (.nopF x s) := fun h => by
  simp only [WellFormed, Instr.wellFormed, Bool.not_eq_true', List.contains_eq_mem, List.mem_cons,
    List.not_mem_nil, decide_eq_false_iff_not, not_or] at h
  simp only [decode, encode, n0_wordXKK, n1_wordXKK, kk_wordXKK, decodeF]
  split <;> simp_all

end Sys2Proof.Laws.EncodeRoundTrip
end

