-- ==== Sys2Proof/Laws/Sprite.lean ====
section
/-! SUPPORT. The sprite of DXYN in the closed form that statements use. -/

namespace Sys2Proof.Machine

/-- Walking on from the corner by the offset of a coordinate reaches the coordinate. -/
theorem offsetFrom_add (size corner : Nat) (r : Fin size) :
    (corner + offsetFrom size corner r.val) % size = r.val := by
  unfold offsetFrom
  have hc := Nat.mod_lt corner r.pos
  rw [Nat.add_mod_mod, ← Nat.mod_add_mod,
    show corner % size + (r.val + (size - corner % size)) = r.val + size by omega, Nat.add_mod_right,
    Nat.mod_eq_of_lt r.isLt]

theorem offsetFrom_lt (size corner : Nat) (r : Fin size) : offsetFrom size corner r.val < size :=
  Nat.mod_lt _ r.pos

/-- The offset is the one way round the edge. -/
theorem offsetFrom_eq {size corner k : Nat} (hk : k < size) (r : Fin size)
    (h : (corner + k) % size = r.val) : offsetFrom size corner r.val = k := by
  have := Nat.ModEq.add_left_cancel' corner (h.trans (offsetFrom_add size corner r).symm)
  rw [Nat.ModEq, Nat.mod_eq_of_lt hk, Nat.mod_eq_of_lt (offsetFrom_lt _ _ _)] at this
  exact this.symm

/-- One sprite row in closed form. -/
theorem rowHas_eq (cx : Nat) (b : Byte) (col : Fin 64) :
    rowHas cx b (List.range 8) col =
      (decide (offsetFrom 64 cx col.val < 8) && b.getLsbD (7 - offsetFrom 64 cx col.val)) := by
  rw [Bool.eq_iff_iff]
  simp only [rowHas, List.any_eq_true, List.mem_range, Bool.and_eq_true, decide_eq_true_eq, Fin.ext_iff,
    Fin.val_ofNat]
  constructor
  · rintro ⟨c, hc, hb, h⟩
    rw [offsetFrom_eq (by omega) col h]
    exact ⟨hc, hb⟩
  · rintro ⟨h, hb⟩
    exact ⟨_, h, hb, offsetFrom_add _ _ _⟩

/-- The whole sprite, row by row. -/
theorem spriteHas_iff (cx cy : Nat) (bs : List Byte) (row : Fin 32) (col : Fin 64) :
    spriteHas cx cy bs row col = true ↔
      ∃ k, ∃ h : k < bs.length, (cy + k) % 32 = row.val ∧ rowHas cx bs[k] (List.range 8) col = true := by
  induction bs generalizing cy with
  | nil => simp [spriteHas]
  | cons b bs ih =>
    simp only [spriteHas, Bool.or_eq_true, Bool.and_eq_true, decide_eq_true_eq, Fin.ext_iff, Fin.val_ofNat, ih]
    constructor
    · rintro (⟨h, h'⟩ | ⟨k, hk, h, h'⟩)
      · exact ⟨0, by simp, by simpa using h, by simpa using h'⟩
      · exact ⟨k + 1, by simpa using hk, by rw [← h]; congr 1; omega, by simpa using h'⟩
    · rintro ⟨k, hk, h, h'⟩
      cases k with
      | zero => exact .inl ⟨by simpa using h, by simpa using h'⟩
      | succ k => exact .inr ⟨k, by simpa using hk, by rw [← h]; congr 1; omega, by simpa using h'⟩

/-- The sprite the instruction draws is the sprite in closed form. -/
theorem spriteHas_readBytes (s : State) (x y : RegIx) (n : Nibble) (row : Fin 32) (col : Fin 64) :
    spriteHas (s.reg x).toNat (s.reg y).toNat (s.readBytes s.i.toNat n.toNat) row col =
      s.spriteBit x y n row col := by
  have hn := n.isLt
  rw [Bool.eq_iff_iff, spriteHas_iff]
  simp only [State.spriteBit, Bool.and_eq_true, decide_eq_true_eq, State.length_readBytes,
    State.getElem_readBytes, rowHas_eq]
  constructor
  · rintro ⟨k, hk, h, h'⟩
    rw [offsetFrom_eq (by omega) row h]
    exact ⟨⟨hk, h'.1⟩, h'.2⟩
  · rintro ⟨⟨h1, h2⟩, h3⟩
    exact ⟨_, h1, offsetFrom_add _ _ _, h2, h3⟩

/-- DXYN's framebuffer and collision. -/
theorem State.drawn_spec (s : State) (x y : RegIx) (n : Nibble) :
    (∀ row col, Framebuffer.pixel (s.drawn x y n).1 row col =
      (Framebuffer.pixel s.fb row col).xor (s.spriteBit x y n row col)) ∧
    ((s.drawn x y n).2 = true ↔
      ∃ row col, s.spriteBit x y n row col = true ∧ Framebuffer.pixel s.fb row col = true) := by
  have hn := n.isLt
  obtain ⟨h1, h2⟩ := drawSprite_spec (s.reg x).toNat (s.reg y).toNat (s.readBytes s.i.toNat n.toNat)
    (by rw [State.length_readBytes]; omega) (s.fb, false)
  simp only [spriteHas_readBytes] at h1 h2
  exact ⟨h1, by rw [State.drawn, h2]; simp⟩

end Sys2Proof.Machine
end

