-- ==== Sys2Proof/Laws/Step.lean ====
section
/-! SUPPORT. What a step can do, said once. -/

namespace Sys2Proof.Machine

/-- Every way a step can give a next state: the four transitions of R110 under their guards, the wait that
goes on, and the halted machine that keeps its state. -/
theorem step_cases {s t : State} (h : step s = .next t) :
    (s.run = .halted ∧ t = s) ∨
    (∃ x, s.run = .waiting x ∧ t = resolveStep x s) ∨
    (s.run = .running ∧ s.phase = .atPoll ∧ t = pollStep s) ∨
    (s.run = .running ∧ s.phase = .inBatch ∧ s.slot = s.cfg.ipf ∧ t = frameEndStep s) ∨
    (s.run = .running ∧ s.phase = .inBatch ∧ s.slot < s.cfg.ipf ∧
      ∃ u, exec (decode s.fetch) s = .next u ∧ t = u.retire) := by
  unfold step loopStep at h
  cases hr : s.run with
  | halted => simp only [hr, Host.Outcome.next.injEq] at h; exact .inl ⟨rfl, h.symm⟩
  | waiting x => simp only [hr, Host.Outcome.next.injEq] at h; exact .inr (.inl ⟨x, rfl, h.symm⟩)
  | running =>
    cases hp : s.phase with
    | atPoll => simp only [hr, hp, Host.Outcome.next.injEq] at h; exact .inr (.inr (.inl ⟨rfl, rfl, h.symm⟩))
    | inBatch =>
      simp only [hr, hp] at h
      split at h
      · next hlt =>
        refine .inr (.inr (.inr (.inr ⟨rfl, rfl, hlt, ?_⟩)))
        unfold instrStep at h
        split at h <;> simp_all
      · split at h
        · next heq =>
          simp only [Host.Outcome.next.injEq] at h
          exact .inr (.inr (.inr (.inl ⟨rfl, rfl, heq, h.symm⟩)))
        · cases h

/-! The step under each guard of R110. -/

theorem step_halted {s : State} (h : s.run = .halted) : step s = .next s := by
  simp only [step, loopStep, h]

theorem step_waiting {s : State} {x : RegIx} (h : s.run = .waiting x) : step s = .next (resolveStep x s) := by
  simp only [step, loopStep, h]

theorem step_atPoll {s : State} (hr : s.run = .running) (hp : s.phase = .atPoll) :
    step s = .next (pollStep s) := by
  simp only [step, loopStep, hr, hp]

theorem step_inBatch {s : State} (hr : s.run = .running) (hp : s.phase = .inBatch)
    (hs : s.slot < s.cfg.ipf) : step s = instrStep s := by
  simp only [step, loopStep, hr, hp, hs, if_true]

theorem step_atFrameEnd {s : State} (h : s.atFrameEnd) : step s = .next (frameEndStep s) := by
  obtain ⟨hr, hp, hs⟩ := h
  simp only [step, loopStep, hr, hp, hs, lt_irrefl, if_false, if_true]

/-! Runs. -/

theorem runSteps_zero (s : State) : runSteps 0 s = .next s := rfl

/-- A run that takes a step goes on from the state it gives. -/
theorem runSteps_succ {s t : State} (n : Nat) (h : step s = .next t) :
    runSteps (n + 1) s = runSteps n t := by
  simp only [runSteps, h]

/-- A run that gives a state has taken its first step. -/
theorem runSteps_succ_next {s u : State} {n : Nat} (h : runSteps (n + 1) s = .next u) :
    ∃ t, step s = .next t ∧ runSteps n t = .next u := by
  unfold runSteps at h
  split at h
  · next t ht => exact ⟨t, ht, h⟩
  · cases h
  · cases h

/-- Every way the loop goes on after an instruction (R110). -/
theorem State.retire_cases (t : State) :
    ((∃ x, t.run = .waiting x) ∧ t.retire = t) ∨
    ((∀ x, t.run ≠ .waiting x) ∧ t.retire = { t with slot := t.slot + 1 }) := by
  unfold State.retire
  cases h : t.run <;> simp

/-- Every way a wait can be resolved (R102). -/
theorem resolveStep_cases (x : RegIx) (s : State) :
    (s.waits = [] ∧ resolveStep x s = s) ∨
    (∃ k rest, s.waits = .keyReceived k :: rest ∧ resolveStep x s =
      { ((s.setReg x (keyByte k)).setKey k .pressed).advance with
        run := .running, slot := s.slot + 1, waits := rest }) ∨
    (∃ rest, s.waits = .halt :: rest ∧ resolveStep x s = { s with run := .halted, waits := rest }) := by
  unfold resolveStep
  match h : s.waits with
  | [] => exact .inl ⟨rfl, rfl⟩
  | .keyReceived k :: rest => exact .inr (.inl ⟨k, rest, rfl, rfl⟩)
  | .halt :: rest => exact .inr (.inr ⟨rest, rfl, rfl⟩)

/-- The fetch reads only the program counter, the memory and the parameters. -/
theorem State.fetch_congr {s t : State} (hp : t.pc = s.pc) (hm : t.mem = s.mem) (hc : t.cfg = s.cfg) :
    t.fetch = s.fetch := by
  simp [State.fetch, State.readByte, hp, hm, hc]

end Sys2Proof.Machine
end

