-- ==== Sys2Proof/Tests/Slice0.lean ====
section
/-! SUPPORT. Tests of the model against the worked examples and vectors of 95_test_vectors.md, and a witness for
the hypotheses of every statement. Every expected value is the spec's. -/

namespace Sys2Proof.Machine.Tests

/-! ## Helpers -/

/-- The state an outcome gives. -/
def after : Result → Option State
  | .next t => some t
  | .fault _ => none
  | .refused _ => none

/-- What is seen of the state an outcome gives. -/
def seen {α : Type} (o : Result) (f : State → α) : Option α := (after o).map f

/-- Reset, inside a batch, with registers loaded. -/
def ready (regs : List (RegIx × Byte)) : State :=
  regs.foldl (fun s p => s.setReg p.1 p.2) { State.reset with phase := .inBatch }

/-- One step that fetches and runs a word. -/
def stepWord (w : Nat) (s : State) : Result := step (s.withFetchWord 16 w)

/-- `n` return-stack entries in use, entry `j` holding `a`. -/
def deep (n : Fin 17) (j : Fin 16) (a : Word) (s : State) : State :=
  { s with sp := n, stack := s.stack.set j a }

/-- One framebuffer row as the list of its set columns. -/
def litColumns (fb : Framebuffer) (row : Fin 32) : List Nat :=
  (List.finRange 64).filterMap fun c => if Framebuffer.pixel fb row c then some c.val else none

/-- A framebuffer with one pixel set. -/
def onePixel (row : Fin 32) (col : Fin 64) : Framebuffer := Framebuffer.flip blankScreen row col

/-! ## WellFormed refuses ill-formed terms (R54, R57, R58) -/

theorem test_illFormed_sys_cls : ¬ WellFormed (.sys 0x0E0) := by decide
theorem test_illFormed_sys_ret : ¬ WellFormed (.sys 0x0EE) := by decide
theorem test_illFormed_nop8 : ¬ WellFormed (.nop8 1 2 0x4) ∧ ¬ WellFormed (.nop8 1 2 0xE) := by decide
theorem test_illFormed_nopE : ¬ WellFormed (.nopE 1 0x9E) ∧ ¬ WellFormed (.nopE 1 0xA1) := by decide
theorem test_illFormed_nopF : ¬ WellFormed (.nopF 1 0x0A) ∧ ¬ WellFormed (.nopF 1 0x65) := by decide

/-! ## Decoding: words written bit by bit from the encodings of R52 and R56, the fields x = A, y = B -/

theorem test_decode_class0 :
    decode 0b0000000011100000 = .cls ∧ decode 0b0000000011101110 = .ret ∧
    decode 0b0000000100100011 = .sys 0x123 := by decide

theorem test_decode_control :
    decode 0b0001101010111100 = .jp 0xABC ∧ decode 0b0010101010111100 = .call 0xABC ∧
    decode 0b1011000100100011 = .jpV0 0x123 := by decide

theorem test_decode_skips :
    decode 0b0011101000010010 = .seImm 0xA 0x12 ∧ decode 0b0100101000010010 = .sneImm 0xA 0x12 ∧
    decode 0b0101101010110001 = .seReg 0xA 0xB 1 ∧ decode 0b1001101010110111 = .sneReg 0xA 0xB 7 := by decide

theorem test_decode_immediates :
    decode 0b0110101000000010 = .ldImm 0xA 0x02 ∧ decode 0b0111111111111111 = .addImm 0xF 0xFF ∧
    decode 0b1100000011111111 = .rnd 0 0xFF ∧ decode 0b1010001000000000 = .ldI 0x200 := by decide

theorem test_decode_class8 :
    decode 0b1000101010110000 = .mov 0xA 0xB ∧ decode 0b1000101010110001 = .orReg 0xA 0xB ∧
    decode 0b1000101010110010 = .andReg 0xA 0xB ∧ decode 0b1000101010110011 = .xorReg 0xA 0xB ∧
    decode 0b1000101010110100 = .addReg 0xA 0xB ∧ decode 0b1000101010110101 = .subReg 0xA 0xB ∧
    decode 0b1000101010110110 = .shr 0xA 0xB ∧ decode 0b1000101010110111 = .subn 0xA 0xB ∧
    decode 0b1000101010111110 = .shl 0xA 0xB ∧ decode 0b1000101010111000 = .nop8 0xA 0xB 8 := by decide

theorem test_decode_classes_D_E :
    decode 0b1101000100100011 = .drw 1 2 3 ∧ decode 0b1110000110011110 = .skp 1 ∧
    decode 0b1110000110100001 = .sknp 1 ∧ decode 0b1110000110011111 = .nopE 1 0x9F := by decide

theorem test_decode_classF :
    decode 0b1111000100000111 = .ldVxDt 1 ∧ decode 0b1111000000001010 = .ldVxK 0 ∧
    decode 0b1111000100010101 = .ldDtVx 1 ∧ decode 0b1111000100011000 = .ldStVx 1 ∧
    decode 0b1111000100011110 = .addI 1 ∧ decode 0b1111000100101001 = .ldF 1 ∧
    decode 0b1111000100110011 = .ldB 1 ∧ decode 0b1111000101010101 = .ldMemVx 1 ∧
    decode 0b1111000101100101 = .ldVxMem 1 ∧ decode 0b1111000101110101 = .nopF 1 0x75 := by decide

/-- A word's bytes, high byte first; a lone byte is no instruction. -/
theorem test_decode_bytes :
    decodeBytes [0xD1, 0x23, 0x00] = .ok (.drw 1 2 3, [0x00]) ∧ decodeBytes [0xD1] = .error .truncated := by
  decide

theorem test_decodeTableWord : decodeTableWord 16 0xD123 = some (.drw 1 2 3) := by decide

/-- The fetch vector of B1: the word at FFF wraps to 000. -/
theorem test_fetch_wraps :
    { ((State.reset.writeByte 0xFFF 0x12).writeByte 0x000 0x34) with pc := 0xFFF }.fetch = 0x1234 := by decide

/-! ## Display (B5) -/

theorem test_DS1_cls :
    seen (stepWord 0x00E0 { ready [(0xF, 1)] with fb := onePixel 3 4 })
      (fun t => (litColumns t.fb 3, t.reg 0xF, t.pc)) = some ([], 1, 0x202) := by decide

theorem test_DS5_drw_wraps_right :
    seen (stepWord 0xD011 ({ ready [(0, 0x3E), (1, 0x05)] with i := 0x300 }.writeByte 0x300 0xFF))
      (fun t => (litColumns t.fb 5, t.reg 0xF)) = some ([0, 1, 2, 3, 4, 5, 62, 63], 0) := by decide

/-- A collision, and a coordinate in VF read before the flag is written. -/
theorem test_DS8_DS10_drw :
    seen (stepWord 0xD011 ({ ready [] with i := 0x300, fb := onePixel 0 1 }.writeByte 0x300 0xC0))
      (fun t => (litColumns t.fb 0, t.reg 0xF)) = some ([0], 1) ∧
    seen (stepWord 0xDF11 ({ ready [(0xF, 5)] with i := 0x300 }.writeByte 0x300 0x80))
      (fun t => (litColumns t.fb 0, t.reg 0xF)) = some ([5], 0) := by decide

/-! ## Control flow (B2) -/

theorem test_CF10_ret :
    seen (stepWord 0x00EE (deep 16 15 0x3FE { ready [] with pc := 0x500 }))
      (fun t => (t.pc, t.sp, t.stackAt 15)) = some (0x400, 15, 0x3FE) := by decide

theorem test_CF9_ret_empty : seen (stepWord 0x00EE (ready [])) (fun t => (t.pc, t.sp)) = some (0x202, 0) := by
  decide

theorem test_CF12_sys : seen (stepWord 0x0FFF (ready [])) (·.pc) = some 0x202 := by decide

theorem test_CF24_sys_wraps : seen (stepWord 0x0000 { ready [] with pc := 0xFFFE }) (·.pc) = some 0 := by decide

theorem test_CF1_jp : seen (stepWord 0x1ABC (ready [])) (·.pc) = some 0xABC := by decide

theorem test_CF7_call :
    seen (stepWord 0x2400 { deep 15 0 0 (ready []) with pc := 0x3F0 })
      (fun t => (t.pc, t.sp, t.stackAt 15)) = some (0x400, 16, 0x3F0) := by decide

theorem test_CF8_call_full :
    seen (stepWord 0x2400 { deep 16 15 0x222 (ready []) with pc := 0x3F0 })
      (fun t => (t.pc, t.sp, t.stackAt 15)) = some (0x400, 16, 0x222) := by decide

theorem test_CF4_jpV0 : seen (stepWord 0xBFFF (ready [(0, 0xFF)])) (·.pc) = some 0x10FE := by decide

theorem test_CF13_CF14_seImm :
    seen (stepWord 0x3342 (ready [(3, 0x42)])) (·.pc) = some 0x204 ∧
    seen (stepWord 0x3343 (ready [(3, 0x42)])) (·.pc) = some 0x202 := by decide

theorem test_CF15_CF16_sneImm :
    seen (stepWord 0x4342 (ready [(3, 0x42)])) (·.pc) = some 0x202 ∧
    seen (stepWord 0x4300 (ready [(3, 0x42)])) (·.pc) = some 0x204 := by decide

theorem test_CF18_CF19_seReg :
    seen (stepWord 0x5120 (ready [(1, 7), (2, 8)])) (·.pc) = some 0x202 ∧
    seen (stepWord 0x512F (ready [(1, 7), (2, 7)])) (·.pc) = some 0x204 := by decide

theorem test_CF21_CF22_sneReg :
    seen (stepWord 0x9120 (ready [(1, 7), (2, 8)])) (·.pc) = some 0x204 ∧
    seen (stepWord 0x9440 (ready [(4, 9)])) (·.pc) = some 0x202 := by decide

/-! ## ALU (B3) -/

theorem test_AL1_ldImm : seen (stepWord 0x6F42 (ready [])) (fun t => (t.reg 0xF, t.pc)) = some (0x42, 0x202) := by
  decide

theorem test_AL2_addImm :
    seen (stepWord 0x7001 (ready [(0, 0xFF), (0xF, 0x55)])) (fun t => (t.reg 0, t.reg 0xF)) = some (0, 0x55) := by
  decide

theorem test_AL4_mov :
    seen (stepWord 0x8120 (ready [(2, 0xAB), (0xF, 1)])) (fun t => (t.reg 1, t.reg 0xF)) = some (0xAB, 1) := by
  decide

theorem test_AL5_or :
    seen (stepWord 0x8011 (ready [(0, 0xF0), (1, 0x0F), (0xF, 0x77)])) (fun t => (t.reg 0, t.reg 0xF)) =
      some (0xFF, 0x77) := by decide

theorem test_AL6_and :
    seen (stepWord 0x8012 (ready [(0, 0xF3), (1, 0x3F), (0xF, 0x77)])) (fun t => (t.reg 0, t.reg 0xF)) =
      some (0x33, 0x77) := by decide

theorem test_AL7_xor :
    seen (stepWord 0x8013 (ready [(0, 0xFF), (1, 0x0F), (0xF, 0x77)])) (fun t => (t.reg 0, t.reg 0xF)) =
      some (0xF0, 0x77) := by decide

theorem test_AL11_AL14_add :
    seen (stepWord 0x8014 (ready [(0, 0x7F), (1, 0x80), (0xF, 9)])) (fun t => (t.reg 0, t.reg 0xF)) =
      some (0xFF, 0) ∧
    seen (stepWord 0x80F4 (ready [(0, 0x01), (0xF, 0xFF)])) (fun t => (t.reg 0, t.reg 0xF)) = some (0, 1) := by
  decide

theorem test_AL13_add_flag_wins : seen (stepWord 0x8F14 (ready [(1, 0xF5), (0xF, 0x10)])) (·.reg 0xF) = some 1 := by
  decide

theorem test_AL16_AL17_sub :
    seen (stepWord 0x8015 (ready [(0, 3), (1, 5), (0xF, 9)])) (fun t => (t.reg 0, t.reg 0xF)) = some (0xFE, 0) ∧
    seen (stepWord 0x8015 (ready [(0, 7), (1, 7)])) (fun t => (t.reg 0, t.reg 0xF)) = some (0, 1) := by decide

theorem test_AL20_AL21_subn :
    seen (stepWord 0x8017 (ready [(0, 3), (1, 5)])) (fun t => (t.reg 0, t.reg 0xF)) = some (2, 1) ∧
    seen (stepWord 0x8017 (ready [(0, 5), (1, 3)])) (fun t => (t.reg 0, t.reg 0xF)) = some (0xFE, 0) := by decide

theorem test_AL24_AL26_shr :
    seen (stepWord 0x8006 (ready [(0, 0xFF)])) (fun t => (t.reg 0, t.reg 0xF)) = some (0x7F, 1) ∧
    seen (stepWord 0x8126 (ready [(1, 4), (2, 0xFF)])) (fun t => (t.reg 1, t.reg 0xF, t.reg 2)) =
      some (2, 0, 0xFF) := by decide

theorem test_AL29_AL30_shl :
    seen (stepWord 0x800E (ready [(0, 0xFF)])) (fun t => (t.reg 0, t.reg 0xF)) = some (0xFE, 1) ∧
    seen (stepWord 0x800E (ready [(0, 0x40)])) (fun t => (t.reg 0, t.reg 0xF)) = some (0x80, 0) := by decide

/-- AL-33: the free value does not show under the immediate 0. -/
theorem test_AL33_rnd : seen (exec (.rnd 0 0) (ready [(0, 7)])) (·.reg 0) = some 0 := by
  have h : boundedDraw (Config.randomDraw 0) 0 = 0 := by
    unfold boundedDraw
    rw [show (0 : Byte).toNat + 1 = 1 from rfl, Nat.mod_one]
    rfl
  show some (((ready [(0, 7)]).setReg 0 (boundedDraw (Config.randomDraw 0) 0)).reg 0) = some 0
  rw [h]
  decide

theorem test_rnd_draws_once : seen (stepWord 0xC0FF (ready [])) (fun t => (t.draws, t.pc)) = some (1, 0x202) := by
  decide

/-! ## Index and memory (B4) -/

theorem test_IM2_ldI : seen (stepWord 0xAFFF (ready [])) (fun t => (t.i, t.pc)) = some (0xFFF, 0x202) := by decide

theorem test_IM6_addI :
    seen (stepWord 0xF01E { ready [(0, 0xFF), (0xF, 9)] with i := 0xF00 }) (fun t => (t.i, t.reg 0xF)) =
      some (0xFFF, 0) := by decide

theorem test_IM7_addI_overflow :
    seen (stepWord 0xF01E { ready [(0, 0xFF)] with i := 0xF01 }) (fun t => (t.i, t.reg 0xF)) =
      some (0xF01, 1) := by decide

theorem test_IM10_IM12_ldF :
    seen (stepWord 0xF029 (ready [(0, 0x0F)])) (·.i) = some 0x04B ∧
    seen (stepWord 0xF029 (ready [(0, 0xFF)])) (·.i) = some 0x4FB := by decide

theorem test_IM18_ldB :
    seen (stepWord 0xF033 { ready [(0, 0x80)] with i := 0x300 }) (fun t => t.readBytes 0x300 3) =
      some [1, 2, 8] := by decide

theorem test_IM20_ldB_wraps :
    seen (stepWord 0xF033 { ready [(0, 0x7B)] with i := 0xFFE })
      (fun t => (t.readByte 0xFFE, t.readByte 0xFFF, t.readByte 0x000)) = some (1, 2, 3) := by decide

theorem test_IM21_ldMemVx :
    seen (stepWord 0xF055 { ready [(0, 0xAA), (1, 0xBB)] with i := 0x400 })
      (fun t => (t.readBytes 0x400 2, t.i)) = some ([0xAA, 0x00], 0x400) := by decide

/-- IM-25: the bytes stored are the next instruction. -/
theorem test_IM25_ldMemVx_then_fetch :
    seen (stepWord 0xF155 { ready [(0, 0x60), (1, 0x7A)] with i := 0x202 })
      (fun t => (t.pc, decode t.fetch)) = some (0x202, .ldImm 0 0x7A) := by decide

theorem test_IM23_ldVxMem :
    seen (stepWord 0xF265 ({ ready [(3, 9)] with i := 0x300 }.writeBytes 0x300 [2, 5, 4, 7]))
      (fun t => (t.reg 0, t.reg 1, t.reg 2, t.reg 3, t.i)) = some (2, 5, 4, 9, 0x300) := by decide

/-! ## Keys, timers and the loop (B6) -/

theorem test_KT2_KT5_skp :
    seen (stepWord 0xE59E (ready [(5, 7)])) (·.pc) = some 0x202 ∧
    seen (stepWord 0xE59E ((ready [(5, 0x17)]).setKey 7 .pressed)) (·.pc) = some 0x204 := by decide

theorem test_KT3_KT4_sknp :
    seen (stepWord 0xE5A1 (ready [(5, 7)])) (·.pc) = some 0x204 ∧
    seen (stepWord 0xE5A1 ((ready [(5, 7)]).setKey 7 .pressed)) (·.pc) = some 0x202 := by decide

theorem test_KT6_ldVxDt : seen (stepWord 0xF107 { ready [] with dt := 3, st := 9 }) (·.reg 1) = some 3 := by decide

theorem test_KT7_ldDtVx : seen (stepWord 0xF015 (ready [(0, 3)])) (fun t => (t.dt, t.st)) = some (3, 0) := by
  decide

theorem test_KT8_ldStVx : seen (stepWord 0xF218 (ready [(2, 0x10)])) (fun t => (t.dt, t.st)) = some (0, 0x10) := by
  decide

theorem test_ldVxK_issues :
    seen (stepWord 0xF30A (ready [])) (fun t => (t.run, t.pc, t.slot)) = some (.waiting 3, 0x200, 0) := by decide

theorem test_KT9_key_received :
    seen (step { ready [] with run := .waiting 3, waits := [.keyReceived 7] })
      (fun t => (t.reg 3, t.key 7, t.pc, t.run, t.slot)) = some (7, .pressed, 0x202, .running, 1) := by decide

theorem test_KT10_halt_in_wait :
    seen (step { ready [(3, 0x55)] with run := .waiting 3, waits := [.halt] })
      (fun t => (t.run, t.reg 3, t.pc)) = some (.halted, 0x55, 0x200) := by decide

theorem test_KT14_frame_end :
    seen (step { ready [] with slot := 4, dt := 0xFF, st := 0x80, fb := onePixel 1 2 })
      (fun t => (t.dt, t.st, t.display.map (litColumns · 1), t.phase)) =
      some (0xFE, 0x7F, some [2], .atPoll) := by decide

theorem test_KT13_frame_end_saturates :
    seen (step { ready [] with slot := 4, dt := 1, st := 0 }) (fun t => (t.dt, t.st)) = some (0, 0) := by decide

/-- R28 and R110 at a halting poll after a frame's end: no instruction of the batch is completed, and the poll
changes RUN alone. -/
theorem test_halting_poll_after_frame_end :
    seen (runSteps 2 { ready [] with slot := 4, polls := [⟨[], true⟩] })
      (fun t => (t.run, t.phase, t.slot, t.batchCount)) = some (.halted, .atPoll, 4, 0) := by decide

theorem test_KT15_poll_in_order :
    seen (step { State.reset with polls := [⟨[⟨5, .pressed⟩, ⟨5, .released⟩], false⟩] })
      (fun t => (t.key 5, t.phase, t.run)) = some (.released, .inBatch, .running) := by decide

theorem test_KT16_halt_discards_keys :
    seen (step { State.reset with polls := [⟨[⟨2, .pressed⟩], true⟩] })
      (fun t => (t.run, t.key 2, t.pc)) = some (.halted, .released, 0x200) := by decide

/-! ## The no-op space (B7) -/

theorem test_NO1_nop8 :
    seen (stepWord 0x812F (ready [(1, 0x12), (2, 0x34), (0xF, 0x99)]))
      (fun t => (t.pc, t.reg 1, t.reg 2, t.reg 0xF)) = some (0x202, 0x12, 0x34, 0x99) := by decide

theorem test_NO2_NO3_nopE :
    seen (stepWord 0xE19F (ready [])) (·.pc) = some 0x202 ∧ seen (stepWord 0xE000 (ready [])) (·.pc) = some 0x202 := by
  decide

theorem test_NO4_NO5_nopF :
    seen (stepWord 0xF1FF (ready [])) (·.pc) = some 0x202 ∧ seen (stepWord 0xF075 (ready [])) (·.pc) = some 0x202 := by
  decide

/-! ## Boot and the host's interface -/

/-- R122, R34: font at 000, program at 0x200, nothing between. -/
theorem test_boot :
    let s := boot referenceConfig [0x6A, 0x02]
    s.readBytes 0x200 3 = [0x6A, 0x02, 0x00] ∧ s.readByte 0x04F = 0x80 ∧ s.readByte 0x050 = 0 := by decide

/-- R123: a font file that is not 80 bytes is unreadable, and the font is looked at first. -/
theorem test_boot_fails :
    bootFrom referenceConfig (some [0xF0]) none = .error (.fatalLoadError .font) ∧
    bootFrom referenceConfig (some customaryFont.toList) none = .error (.fatalLoadError .program) := ⟨rfl, rfl⟩

theorem test_core : core.reset = State.reset ∧ core.step = step := ⟨rfl, rfl⟩

theorem test_withFetchWord_first :
    seen (step (State.reset.withFetchWord 16 0x1ABC)) (·.pc) = some 0xABC := by decide

/-! ## Witnesses: states and operands that meet the hypotheses of each statement -/

theorem witness_DecodeOfEncodeIsIdentity :
    WellFormed (.sys 0x123) ∧ WellFormed (.nop8 1 2 0xF) ∧ WellFormed (.nopF 1 0x75) ∧ WellFormed .cls := by decide

/-- A word that two rows match: CLS and SYS. -/
theorem witness_DecodeTakesMostSpecificRow :
    (opcodeMap.filter fun r => r.matches 0x00E0).map (·.number) = [1, 3] := by decide

theorem witness_StepRunsTheDecodedInstruction :
    let s := ready []
    s.run = .running ∧ s.phase = .inBatch ∧ s.slot < s.cfg.ipf ∧
      decode (s.readByte s.pc.toNat ++ s.readByte (s.pc.toNat + 1)) = .sys 0 := by decide

theorem reset_inv : State.reset.Inv := ⟨by decide, by decide, by decide, fun x h => by cases h⟩

theorem witness_StepKeepsInvariant : State.reset.Inv ∧ ∃ t, step State.reset = .next t :=
  ⟨reset_inv, _, rfl⟩

/-- The invariant in a waiting state. -/
theorem witness_StepKeepsInvariant_waiting :
    let s : State := { (ready []).writeBytes 0x200 [0xF3, 0x0A] with run := .waiting 3 }
    s.Inv ∧ ∃ t, step s = .next t :=
  ⟨⟨by decide, by decide, by decide, fun x h => by
    injection h with h; subst h; exact ⟨rfl, by decide, by decide⟩⟩, _, rfl⟩

theorem witness_RunsFromInvariantNeverStop : State.reset.Inv := reset_inv

theorem witness_IndexStaysTwelveBits :
    let s : State := { ready [(0, 0xFF)] with i := 0xFFF }
    s.i.toNat ≤ 0xFFF ∧ ∃ t, exec (.addI 0) s = .next t := ⟨by decide, _, rfl⟩

theorem witness_SlotBeyondBatchStops :
    let s : State := { ready [] with slot := 5 }
    s.run = .running ∧ s.phase = .inBatch ∧ s.cfg.ipf < s.slot := by decide

/-- Every kind of write of the statement happens. -/
theorem witness_OnlyTheNamedInstructionsWriteEachPart :
    (∃ t, exec (.ldI 0x123) (ready []) = .next t ∧ t.i ≠ (ready []).i) ∧
    (∃ t, exec (.call 0x123) (ready []) = .next t ∧ t.stackAt 0 ≠ (ready []).stackAt 0 ∧ t.sp ≠ (ready []).sp) ∧
    (∃ t, exec (.ldDtVx 0) (ready [(0, 1)]) = .next t ∧ t.dt ≠ (ready [(0, 1)]).dt) ∧
    (∃ t, exec (.ldStVx 0) (ready [(0, 1)]) = .next t ∧ t.st ≠ (ready [(0, 1)]).st) ∧
    (∃ t, exec (.drw 0 0 5) (ready []) = .next t ∧ t.fb ≠ (ready []).fb) ∧
    (∃ t, exec (.ldMemVx 0) (ready [(0, 1)]) = .next t ∧ t.readByte 0 ≠ (ready [(0, 1)]).readByte 0) ∧
    (∃ t, exec (.ldVxK 0) (ready []) = .next t ∧ t.run ≠ (ready []).run) ∧
    (∃ t, exec (.rnd 0 0xFF) (ready []) = .next t ∧ t.draws ≠ (ready []).draws) := by
  refine ⟨⟨_, rfl, ?_⟩, ⟨_, rfl, ?_⟩, ⟨_, rfl, ?_⟩, ⟨_, rfl, ?_⟩, ⟨_, rfl, ?_⟩, ⟨_, rfl, ?_⟩, ⟨_, rfl, ?_⟩, ⟨_, rfl, ?_⟩⟩
  all_goals decide

theorem witness_RegistersChangeOnlyAsDestinationOrFlag :
    ∃ t, exec (.addReg 0 1) (ready [(0, 0xFF), (1, 2)]) = .next t ∧
      t.reg 0 ≠ (ready [(0, 0xFF), (1, 2)]).reg 0 ∧ t.reg 0xF ≠ (ready [(0, 0xFF), (1, 2)]).reg 0xF :=
  ⟨_, rfl, by decide, by decide⟩

theorem witness_KeysAndDelayChangeOnlyWhereStated :
    (∃ t, step { State.reset with polls := [⟨[⟨2, .pressed⟩], false⟩] } = .next t ∧
      t.keys ≠ State.reset.keys) ∧
    (∃ t, step { ready [] with slot := 4, dt := 2 } = .next t ∧ t.dt ≠ 2) :=
  ⟨⟨_, rfl, by decide⟩, ⟨_, rfl, by decide⟩⟩

theorem witness_WaitAndHaltAreEnteredOnlyWhereStated :
    (∃ t, step { State.reset with polls := [⟨[], true⟩] } = .next t ∧ t.run = .halted) ∧
    (∃ t, step { ready [] with run := .waiting 3, waits := [.halt] } = .next t ∧ t.run = .halted) ∧
    (∃ t, step ((ready []).withFetchWord 16 0xF30A) = .next t ∧ t.run = .waiting 3) :=
  ⟨⟨_, rfl, rfl⟩, ⟨_, rfl, rfl⟩, ⟨_, rfl, by decide⟩⟩

/-- From reset, four no-ops fill the first batch: the fifth step after reset leaves the machine at its frame
end. -/
theorem witness_FrameCompletesExactlyIpfInstructions :
    State.reset.run = .running ∧ State.reset.phase = .atPoll ∧ NoFrameEnd 5 State.reset ∧
      ∃ t, runSteps 5 State.reset = .next t ∧ t.atFrameEnd ∧ completedIn 5 State.reset = t.cfg.ipf := by
  refine ⟨rfl, rfl, ?_, _, rfl, ⟨by decide, by decide, by decide⟩, by decide⟩
  refine ⟨fun h => absurd h.2.1 (by decide), fun t h => ?_⟩
  iterate 4
    cases h
    refine ⟨fun h => absurd h.2.2 (by decide), fun t h => ?_⟩
  trivial

theorem witness_PollAppliesTransitionsOrHalts :
    let a : PollAnswer := ⟨[⟨5, .pressed⟩, ⟨5, .released⟩], false⟩
    let s : State := { State.reset with polls := [a, ⟨[], true⟩] }
    s.run = .running ∧ s.phase = .atPoll ∧ s.polls = a :: [⟨[], true⟩] ∧ a.halt = false ∧
      (⟨[], true⟩ : PollAnswer).halt = true := by decide

theorem witness_FrameEndPresentsAndTicks :
    let s : State := { ready [] with slot := 4, dt := 1, st := 0 }
    s.run = .running ∧ s.phase = .inBatch ∧ s.slot = s.cfg.ipf ∧ 0 < s.dt.toNat ∧ s.st.toNat = 0 := by decide

theorem witness_KeyWaitIssuesAndResolves :
    let s : State := { ready [] with run := .waiting 3 }
    s.run = .waiting 3 ∧ s.waits = [] ∧
      { s with waits := [.keyReceived 7] }.waits = .keyReceived 7 :: [] ∧
      { s with waits := [.halt] }.waits = .halt :: [] := by decide

theorem witness_HaltedKeepsTheFinalState : { State.reset with run := .halted }.run = .halted := rfl

/-- A memory with room for one program byte, and a program of two. -/
theorem witness_BootLeavesTheStatedState :
    let cfg : Config := { memSize := 0x201, ipf := 1, font := customaryFont }
    let program : List Byte := [0x12, 0x34]
    79 < 80 ∧ 0 < program.length ∧ 0x200 + 0 < cfg.memSize ∧ 1 < program.length ∧ ¬ 0x200 + 1 < cfg.memSize ∧
      80 < cfg.memSize ∧ 0x1FF < 0x200 ∧ (boot cfg program).readByte 0x200 = 0x12 := by decide

theorem witness_BootFailsOnlyOnUnreadableFiles :
    (some customaryFont.toList = some customaryFont.toList) ∧ customaryFont.toList.length = 80 ∧
      (some ([] : List Byte) = some []) := by decide

theorem witness_CanonicalMemoriesThatReadAlikeAreEqual :
    Memory.wf referenceConfig [(0x200, 1), (0x201, 2)] ∧
    (∀ a, a < referenceConfig.memSize → Memory.read referenceConfig [(0x200, 1), (0x201, 2)] a =
      Memory.read referenceConfig [(0x200, 1), (0x201, 2)] a) := ⟨by decide, fun _ _ => rfl⟩

theorem witness_FetchSeesStoredRegisters :
    (0xE : RegIx).toNat < (0xF : RegIx).toNat ∧ { State.reset with i := 0xFFF }.i.toNat ≤ 0xFFF := by decide

theorem witness_DrawingTwiceRestoresTheScreen :
    ∃ t, exec (.drw 0 1 5) (ready [(0, 60), (1, 31)]) = .next t ∧
      t.reg 0 = (ready [(0, 60), (1, 31)]).reg 0 ∧ t.reg 1 = (ready [(0, 60), (1, 31)]).reg 1 :=
  ⟨_, rfl, by decide, by decide⟩

theorem witness_ReturnPopsOrIsNoOp :
    (deep 0 0 0 (ready [])).sp.val = 0 ∧ (deep 1 0 0x204 (ready [])).sp.val = (0 : Fin 16).val + 1 ∧
    (deep 16 15 0x3FE (ready [])).sp.val = (15 : Fin 16).val + 1 := by decide

theorem witness_CallPushesUnlessFullAndJumps :
    (deep 15 0 0 (ready [])).sp.val < 16 ∧ (deep 16 0 0 (ready [])).sp.val = 16 := by decide

theorem witness_CallThenReturnResumesAfterCall : (deep 15 0 0 (ready [])).sp.val < 16 := by decide

theorem witness_SkipsOnKey : (7 : KeyCode).toNat = ((ready [(5, 0x17)]).reg 5).toNat % 16 := by decide

theorem witness_UnassignedWordsOnlyAdvance :
    (0x0E1 : Addr12) ≠ 0x0E0 ∧ (0x0E1 : Addr12) ≠ 0x0EE ∧
    (0xF : Nibble) ∈ [0x8#4, 0x9#4, 0xA#4, 0xB#4, 0xC#4, 0xD#4, 0xF#4] ∧
    (0x9F : Byte) ∉ [0x9E#8, 0xA1#8] ∧
    (0x66 : Byte) ∉ [0x07#8, 0x0A#8, 0x15#8, 0x18#8, 0x1E#8, 0x29#8, 0x33#8, 0x55#8, 0x65#8] := by decide

/-- Both sides of each flag's boundary. -/
theorem witness_flag_boundaries :
    255 < ((ready [(0, 0x80), (1, 0x80)]).reg 0).toNat + ((ready [(0, 0x80), (1, 0x80)]).reg 1).toNat ∧
    ¬ 255 < ((ready [(0, 0x7F), (1, 0x80)]).reg 0).toNat + ((ready [(0, 0x7F), (1, 0x80)]).reg 1).toNat ∧
    ((ready [(0, 7), (1, 7)]).reg 1).toNat ≤ ((ready [(0, 7), (1, 7)]).reg 0).toNat ∧
    (0 : RegIx) ≠ 0xF#4 := by decide

theorem witness_RandomIsBoundedByImmediate : (0xFF : Byte).toNat ≤ (0xFF : Byte).toNat := by decide

theorem witness_AddIndexKeepsIndexOnOverflow :
    0xFFF < { ready [(0, 1)] with i := 0xFFF }.i.toNat + ((ready [(0, 1)]).reg 0).toNat ∧
    { ready [(0, 0)] with i := 0xFFF }.i.toNat + ((ready [(0, 0)]).reg 0).toNat ≤ 0xFFF := by decide

/-- An address outside the three bytes stored from FFE, which wrap to 000; 001 is the first one after. -/
theorem witness_StoreBcdDigits :
    ∀ k, k < 3 → 0x001 % State.reset.cfg.memSize ≠ (0xFFE + k) % State.reset.cfg.memSize := by decide

/-- The same for the 16 bytes of FF55 from FF8. -/
theorem witness_StoreRegistersFromIndex :
    ∀ k, k < (0xF : RegIx).toNat + 1 → 0x008 % State.reset.cfg.memSize ≠ (0xFF8 + k) % State.reset.cfg.memSize := by
  decide

theorem witness_SlotIsZeroAtEveryPoll :
    (let s : State := { State.reset with slot := 4, polls := [⟨[], true⟩] }
     s.run = .running ∧ s.phase = .atPoll ∧ ∃ t, step s = .next t) ∧
    (State.reset.Inv ∧ ¬ State.reset.atFrameEnd ∧ ∃ t, step State.reset = .next t) ∧
    (let s : State := { ready [] with slot := 4 }
     s.Inv ∧ s.atFrameEnd ∧ ∃ t, step s = .next t) :=
  ⟨⟨rfl, rfl, _, rfl⟩, ⟨reset_inv, fun h => absurd h.2.1 (by decide), _, rfl⟩,
    ⟨by decide, by decide, by decide, fun x h => by cases h⟩, ⟨rfl, rfl, rfl⟩, _, rfl⟩

theorem witness_LoadRegistersFromIndex :
    (0xE : RegIx).toNat ≤ (0xE : RegIx).toNat ∧ (0xE : RegIx).toNat < (0xF : RegIx).toNat := by decide

end Sys2Proof.Machine.Tests
end

section
/-! The scope statements (00_scope.md): what holds of `exec` for every instruction in every state. -/

namespace Sys2Proof.Machine

/-- Settles O7, by cases on the instruction: each arm of `exec` answers `.next` of a state it builds outright.
Where a meaning has two outcomes (RET on an empty stack, the skips, FX1E), the choice stands inside that
`.next`, so no path leaves it. -/
theorem noInstructionFails : Obligations.NoInstructionFails := by
  intro i s
  cases i <;> exact ⟨_, rfl⟩

end Sys2Proof.Machine
end

section
/-! What one instruction can do to the state (10_state.md R16 to R28), said once for all of them, and the
parts that no instruction reads. -/

namespace Sys2Proof.Machine

/-- Everything an instruction executed in `s` can leave behind, told apart by the parts besides V and pc that it
writes: `regs` is the case of every instruction that writes none of them. -/
inductive Effect (s : State) : Instr → State → Prop
  | regs (i : Instr) (v : Vector Byte 16) (a : Word) : Effect s i { s with v := v, pc := a }
  | ldI (nnn : Addr12) : Effect s (.ldI nnn) (s.setI (addressOf nnn)).advance
  | ldF (x : RegIx) : Effect s (.ldF x) (s.setI (glyphAddress (s.reg x))).advance
  | addI (x : RegIx) (v : Vector Byte 16) (h : indexOverflow s.i (s.reg x) = false) :
      Effect s (.addI x) { s with v := v, i := BitVec.ofNat 16 (indexSum s.i (s.reg x)), pc := s.pc + 2 }
  | call (nnn : Addr12) : Effect s (.call nnn) ((s.push s.pc).setPc (addressOf nnn))
  | ret (a : Word) : Effect s .ret (s.drop.setPc a)
  | ldDtVx (x : RegIx) : Effect s (.ldDtVx x) (s.setDt (s.reg x)).advance
  | ldStVx (x : RegIx) : Effect s (.ldStVx x) (s.setSt (s.reg x)).advance
  | cls : Effect s .cls (s.setFb blankScreen).advance
  | drw (x y : RegIx) (n : Nibble) (fb : Framebuffer) (c : Bool) :
      Effect s (.drw x y n) ((s.setFb fb).setFlag c).advance
  | ldB (x : RegIx) (a : Nat) (bs : List Byte) : Effect s (.ldB x) (s.writeBytes a bs).advance
  | ldMemVx (x : RegIx) (a : Nat) (bs : List Byte) : Effect s (.ldMemVx x) (s.writeBytes a bs).advance
  | ldVxK (x : RegIx) : Effect s (.ldVxK x) (s.setRun (.waiting x))
  | rnd (x : RegIx) (kk b : Byte) : Effect s (.rnd x kk) (s.draw.2.setReg x b).advance

/-- A skip moves pc alone. -/
theorem effect_skipIf (s : State) (i : Instr) (c : Bool) : Effect s i (s.skipIf c) := by
  rw [State.skipIf_eq]
  exact .regs i s.v _

/-- Every state that `exec` gives is one of the listed effects of its instruction. -/
theorem exec_effect {i : Instr} {s t : State} (h : exec i s = .next t) : Effect s i t := by
  cases i
  case seImm | sneImm | seReg | sneReg | skp | sknp => cases h; exact effect_skipIf s _ _
  case ldI => cases h; exact .ldI _
  case ldF => cases h; exact .ldF _
  case addI x =>
    cases h
    split
    · exact .regs _ _ _
    · next hno => exact .addI x _ (Bool.eq_false_iff.2 hno)
  case call => cases h; exact .call _
  case ret =>
    cases h
    split
    · exact .regs _ s.v _
    · exact .ret _
  case ldDtVx => cases h; exact .ldDtVx _
  case ldStVx => cases h; exact .ldStVx _
  case cls => cases h; exact .cls
  case drw => cases h; exact .drw _ _ _ _ _
  case ldB => cases h; exact .ldB _ _ _
  case ldMemVx => cases h; exact .ldMemVx _ _ _
  case ldVxK => cases h; exact .ldVxK _
  case rnd => cases h; exact .rnd _ _ _
  case ldVxMem =>
    cases h
    rw [State.setRegs_eq]
    exact .regs _ _ _
  all_goals cases h; exact .regs _ _ _

/-- Settles O13, by the effect of the instruction (`exec_effect`): each effect names its instruction and the one
part it writes besides V and pc, so every clause about another part has an unchanged part. -/
theorem onlyTheNamedInstructionsWriteEachPart : Obligations.OnlyTheNamedInstructionsWriteEachPart := by
  intro i s t h
  cases exec_effect h
  all_goals simp [State.readByte, State.stackAt]

/-! ## I (R18) -/

theorem addressOf_le (nnn : Addr12) : (addressOf nnn).toNat ≤ 0xFFF := by
  have hle : (addressOf nnn).toNat ≤ nnn.toNat := by simp [addressOf, Nat.mod_le]
  have := nnn.isLt
  omega

theorem glyphAddress_le (b : Byte) : (glyphAddress b).toNat ≤ 0xFFF := by
  have hle : (glyphAddress b).toNat ≤ 5 * b.toNat := by simp [glyphAddress, Nat.mod_le]
  have := b.isLt
  omega

theorem indexSum_le {i : Word} {b : Byte} (h : indexOverflow i b = false) :
    (BitVec.ofNat 16 (indexSum i b)).toNat ≤ 0xFFF := by
  have hle : indexSum i b ≤ 0xFFF := by simpa [indexOverflow] using h
  exact (Nat.mod_le _ _).trans hle

theorem exec_index_le {i : Instr} {s t : State} (h : exec i s = .next t) (hi : s.i.toNat ≤ 0xFFF) :
    t.i.toNat ≤ 0xFFF := by
  cases exec_effect h
  case ldI nnn => exact addressOf_le nnn
  case ldF x => exact glyphAddress_le (s.reg x)
  case addI hno => exact indexSum_le hno
  all_goals simpa using hi

/-- Settles O11, from `exec_index_le`; reset has I = 0. -/
theorem indexStaysTwelveBits : Obligations.IndexStaysTwelveBits :=
  ⟨by decide, fun _ _ _ hi h => exec_index_le h hi⟩

/-! ## The registers (R16) -/

theorem eq_of_reg_setReg_ne {s : State} {x r : RegIx} {b : Byte} (h : (s.setReg x b).reg r ≠ s.reg r) :
    r = x := by
  by_contra hne
  exact h (State.reg_setReg_ne s b hne)

theorem eq_vf_of_reg_setFlag_ne {s : State} {r : RegIx} {c : Bool} (h : (s.setFlag c).reg r ≠ s.reg r) :
    r = vf := eq_of_reg_setReg_ne h

/-- A result with a flag writes its destination and VF. -/
theorem eq_or_eq_vf_of_reg_setFlag_setReg_ne {s : State} {x r : RegIx} {b : Byte} {c : Bool}
    (h : ((s.setReg x b).setFlag c).reg r ≠ s.reg r) : r = x ∨ r = vf := by
  by_cases hx : (s.setReg x b).reg r = s.reg r
  · exact .inr (eq_vf_of_reg_setFlag_ne (hx ▸ h))
  · exact .inl (eq_of_reg_setReg_ne hx)

/-- FX65's loaded run reaches no register above V[x]. -/
theorem toNat_le_of_reg_setRegs_ne {s : State} {x r : RegIx} {a : Nat}
    (h : (s.setRegs 0 (s.readBytes a (x.toNat + 1))).reg r ≠ s.reg r) : r.toNat ≤ x.toNat := by
  by_contra hlt
  have hx := x.isLt
  exact h (State.reg_setRegs_ne s 0 _ r (by rw [State.length_readBytes]; omega)
    (by rw [State.length_readBytes]; omega))

/-- Settles O14, by the kind of register write of the instruction: a result alone, a result and its flag, a flag
alone, the loaded run of FX65, or none. -/
theorem registersChangeOnlyAsDestinationOrFlag : Obligations.RegistersChangeOnlyAsDestinationOrFlag := by
  intro i s t h r hr
  cases i
  case ldImm | addImm | mov | orReg | andReg | xorReg | ldVxDt | rnd =>
    cases h; exact .inl (eq_of_reg_setReg_ne hr)
  case addReg | subReg | shr | subn | shl =>
    cases h; exact (eq_or_eq_vf_of_reg_setFlag_setReg_ne hr).imp_right fun e => ⟨e, trivial⟩
  case drw => cases h; exact .inr ⟨eq_vf_of_reg_setFlag_ne hr, trivial⟩
  case addI x =>
    cases h
    refine .inr ⟨?_, trivial⟩
    split at hr <;> exact eq_vf_of_reg_setFlag_ne hr
  case ldVxMem x => cases h; exact .inl (toNat_le_of_reg_setRegs_ne hr)
  case ret => cases h; split at hr <;> exact absurd rfl hr
  all_goals cases h; exact absurd (by simp) hr

/-! ## The parts no instruction reads: ST, PHASE and SLOT (R23, R28) -/

/-- The state with other values of ST, PHASE and SLOT. -/
def State.withUnread (s : State) (b : Byte) (p : Phase) (n : Nat) : State :=
  { s with st := b, phase := p, slot := n }

section

variable (s : State) (b : Byte) (p : Phase) (n : Nat)

theorem State.withUnread_writeBytes (a : Nat) (bs : List Byte) :
    (s.withUnread b p n).writeBytes a bs = (s.writeBytes a bs).withUnread b p n := by
  induction bs generalizing s a with
  | nil => rfl
  | cons c bs ih => exact ih (s.writeByte a c) (a + 1)

theorem State.withUnread_setRegs (k : Nat) (bs : List Byte) :
    (s.withUnread b p n).setRegs k bs = (s.setRegs k bs).withUnread b p n := by
  induction bs generalizing s k with
  | nil => rfl
  | cons c bs ih => exact ih (s.setReg (BitVec.ofNat 4 k) c) (k + 1)

theorem State.withUnread_push (a : Word) :
    (s.withUnread b p n).push a = (s.push a).withUnread b p n := by
  unfold State.push
  rw [apply_ite (State.withUnread · b p n)]
  rfl

theorem State.withUnread_skipIf (c : Bool) :
    (s.withUnread b p n).skipIf c = (s.skipIf c).withUnread b p n := by
  cases c <;> rfl

end

/-- An instruction other than FX18 runs alike whatever ST, PHASE and SLOT are, and leaves them as they are. -/
theorem exec_withUnread {i : Instr} {s t : State} (hi : ∀ x, i ≠ .ldStVx x) (h : exec i s = .next t) (b : Byte)
    (p : Phase) (n : Nat) : exec i (s.withUnread b p n) = .next (t.withUnread b p n) := by
  cases i
  case ldStVx x => exact absurd rfl (hi x)
  case call =>
    cases h
    exact congrArg (fun u : State => Host.Outcome.next (u.setPc _)) (State.withUnread_push s b p n _)
  case ret =>
    cases h
    rw [apply_ite (State.withUnread · b p n)]
    rfl
  case addI x =>
    cases h
    rw [apply_ite (State.withUnread · b p n)]
    rfl
  case seImm | sneImm | seReg | sneReg | skp | sknp =>
    cases h
    exact congrArg _ (State.withUnread_skipIf s b p n _)
  case ldB | ldMemVx =>
    cases h
    exact congrArg (fun u : State => Host.Outcome.next u.advance) (State.withUnread_writeBytes s b p n _ _)
  case ldVxMem =>
    cases h
    exact congrArg (fun u : State => Host.Outcome.next u.advance) (State.withUnread_setRegs s b p n _ _)
  all_goals cases h; rfl

/-- Only FX18 writes ST. -/
theorem exec_st {i : Instr} {s t : State} (hi : ∀ x, i ≠ .ldStVx x) (h : exec i s = .next t) : t.st = s.st := by
  by_contra hne
  obtain ⟨-, -, -, -, hst, -⟩ := onlyTheNamedInstructionsWriteEachPart i s t h
  obtain ⟨x, hx⟩ := hst hne
  exact hi x hx

/-- Settles O15, from `exec_withUnread`; FX18 reads one V register alone. -/
theorem instructionsDoNotReadPhaseOrSlot : Obligations.InstructionsDoNotReadPhaseOrSlot := by
  intro i s p n
  by_cases hi : ∃ x, i = .ldStVx x
  · obtain ⟨x, rfl⟩ := hi
    rfl
  · have hi : ∀ x, i ≠ .ldStVx x := fun x e => hi ⟨x, e⟩
    obtain ⟨t, ht⟩ := noInstructionFails i s
    have hst : t.withUnread s.st p n = { t with phase := p, slot := n } := by
      rw [← exec_st hi ht]
      rfl
    calc exec i { s with phase := p, slot := n } = .next (t.withUnread s.st p n) :=
          exec_withUnread hi ht s.st p n
      _ = Result.withLoop p n (exec i s) := by rw [hst, ht]; rfl

end Sys2Proof.Machine
end

section
/-! ST influences nothing over any number of steps (10_state.md R23, R29). -/

namespace Sys2Proof.Machine

/-- An instruction run with another ST gives the same state, up to ST. -/
theorem exec_setSt {i : Instr} {s t : State} (h : exec i s = .next t) (b : Byte) :
    ∃ c, exec i (s.setSt b) = .next (t.setSt c) := by
  by_cases hi : ∃ x, i = .ldStVx x
  · obtain ⟨x, rfl⟩ := hi
    cases h
    exact ⟨s.reg x, rfl⟩
  · have hi : ∀ x, i ≠ .ldStVx x := fun x e => hi ⟨x, e⟩
    obtain ⟨hslot, hphase, -⟩ := exec_loop h
    refine ⟨b, (exec_withUnread hi h b s.phase s.slot).trans ?_⟩
    rw [← hslot, ← hphase]
    rfl

theorem retire_setSt (s : State) (b : Byte) : (s.setSt b).retire = s.retire.setSt b := by
  cases h : s.run <;> simp [State.retire, State.setSt, h]

theorem resolveStep_setSt (x : RegIx) (s : State) (b : Byte) :
    resolveStep x (s.setSt b) = (resolveStep x s).setSt b := by
  unfold resolveStep
  rw [State.setSt_waits]
  split <;> rfl

theorem applyKeys_setSt (s : State) (b : Byte) (es : List KeyEvent) :
    (s.setSt b).applyKeys es = (s.applyKeys es).setSt b := by
  induction es generalizing s with
  | nil => rfl
  | cons e es ih => exact ih (s.setKey e.key e.value)

theorem pollStep_setSt (s : State) (b : Byte) : pollStep (s.setSt b) = (pollStep s).setSt b := by
  unfold pollStep
  rw [apply_ite (State.setSt · b), show (s.setSt b).nextPoll = s.nextPoll from rfl, applyKeys_setSt]
  rfl

/-- With SLOT above IPF, a batch has no step (log entry 8). -/
theorem step_slotBeyondBatch {s : State} (hr : s.run = .running) (hp : s.phase = .inBatch)
    (hs : s.cfg.ipf < s.slot) : step s = .fault .slotBeyondBatch := by
  simp only [step, loopStep, hr, hp, hs.not_gt, hs.ne', if_false]

/-- A step from a state with another ST is the same step, up to ST. -/
theorem step_setSt (s : State) (b : Byte) :
    (∃ t c, step s = .next t ∧ step (s.setSt b) = .next (t.setSt c)) ∨
    (∃ r, step s = .fault r ∧ step (s.setSt b) = .fault r) := by
  cases hr : s.run with
  | halted => exact .inl ⟨s, b, step_halted hr, step_halted hr⟩
  | waiting x =>
    refine .inl ⟨_, b, step_waiting hr, ?_⟩
    rw [← resolveStep_setSt]
    exact step_waiting hr
  | running =>
    cases hp : s.phase with
    | atPoll =>
      refine .inl ⟨_, b, step_atPoll hr hp, ?_⟩
      rw [← pollStep_setSt]
      exact step_atPoll hr hp
    | inBatch =>
      rcases lt_trichotomy s.slot s.cfg.ipf with hlt | heq | hgt
      · obtain ⟨t, ht⟩ := noInstructionFails (decode s.fetch) s
        obtain ⟨c, hc⟩ := exec_setSt ht b
        refine .inl ⟨t.retire, c, ?_, ?_⟩
        · rw [step_inBatch hr hp hlt, instrStep, ht]
        · rw [step_inBatch (s := s.setSt b) hr hp hlt, instrStep,
            show (s.setSt b).fetch = s.fetch from rfl, hc, ← retire_setSt]
      · exact .inl ⟨_, tick b, step_atFrameEnd ⟨hr, hp, heq⟩, step_atFrameEnd (s := s.setSt b) ⟨hr, hp, heq⟩⟩
      · exact .inr ⟨_, step_slotBeyondBatch hr hp hgt, step_slotBeyondBatch (s := s.setSt b) hr hp hgt⟩

/-- Settles O16, by induction on the number of steps: `step_setSt` keeps the two runs alike up to ST. -/
theorem soundTimerInfluencesNothing : Obligations.SoundTimerInfluencesNothing := by
  intro n s b
  change Result.withoutSound (runSteps n (s.setSt b)) = _
  induction n generalizing s b with
  | zero => rfl
  | succ n ih =>
    rcases step_setSt s b with ⟨t, c, hs, hb⟩ | ⟨r, hs, hb⟩
    · rw [runSteps_succ n hs, runSteps_succ n hb]
      exact ih t c
    · simp only [runSteps, hs, hb]

end Sys2Proof.Machine
end

section
/-! Every step keeps the invariant (10_state.md R18, R27, R28; 60_exceptions.md R110). -/

namespace Sys2Proof.Machine

/-- A state that waits for no key meets the invariant when its memory, I and SLOT do. -/
theorem inv_of_not_waiting {s : State} (hm : Memory.wf s.cfg s.mem) (hi : s.i.toNat ≤ 0xFFF)
    (hs : s.slot ≤ s.cfg.ipf) (hw : ∀ x, s.run ≠ .waiting x) : s.Inv :=
  ⟨hm, hi, hs, fun x hx => absurd hx (hw x)⟩

/-- Everything a poll can do (R110): it halts, or it opens the batch with other keys. -/
theorem pollStep_cases (s : State) :
    pollStep s = { s with run := .halted, polls := s.nextPoll.2 } ∨
    pollStep s = { s with
      keys := (s.applyKeys s.nextPoll.1.transitions).keys
      slot := 0
      phase := .inBatch
      polls := s.nextPoll.2 } := by
  unfold pollStep
  split
  · exact .inl rfl
  · rw [State.applyKeys_eq]
    exact .inr rfl

theorem inv_pollStep {s : State} (h : s.Inv) (hr : s.run = .running) : (pollStep s).Inv := by
  obtain ⟨hm, hi, hs, -⟩ := h
  rcases pollStep_cases s with e | e
  · rw [e]
    exact inv_of_not_waiting hm hi hs (by simp)
  · rw [e]
    exact inv_of_not_waiting hm hi (Nat.zero_le _) (by simp [hr])

theorem inv_resolveStep {s : State} {x : RegIx} (h : s.Inv) (hr : s.run = .waiting x) :
    (resolveStep x s).Inv := by
  obtain ⟨hm, hi, hs, hw⟩ := h
  obtain ⟨-, hlt, -⟩ := hw x hr
  rcases resolveStep_cases x s with ⟨-, e⟩ | ⟨k, rest, -, e⟩ | ⟨rest, -, e⟩
  · rw [e]
    exact ⟨hm, hi, hs, hw⟩
  · rw [e]
    exact inv_of_not_waiting hm hi hlt (by simp)
  · rw [e]
    exact inv_of_not_waiting hm hi hs (by simp)

theorem inv_frameEndStep {s : State} (h : s.Inv) (hr : s.run = .running) : (frameEndStep s).Inv := by
  obtain ⟨hm, hi, hs, -⟩ := h
  exact inv_of_not_waiting hm hi hs (by simp [frameEndStep, hr])

/-- An instruction that leaves the machine waiting is the FX0A, which changed RUN alone. -/
theorem eq_setRun_of_exec_waiting {i : Instr} {s t : State} {x : RegIx} (h : exec i s = .next t)
    (hr : s.run = .running) (ht : t.run = .waiting x) : i = .ldVxK x ∧ t = s.setRun (.waiting x) := by
  cases exec_effect h
  case ldVxK y =>
    obtain rfl : y = x := by simpa using ht
    exact ⟨rfl, rfl⟩
  all_goals simp [hr] at ht

theorem inv_retire_of_exec {s t : State} (h : s.Inv) (hr : s.run = .running) (hp : s.phase = .inBatch)
    (hlt : s.slot < s.cfg.ipf) (he : exec (decode s.fetch) s = .next t) : t.retire.Inv := by
  obtain ⟨hm, hi, hs, -⟩ := h
  have hm' := exec_wf he hm
  have hi' := exec_index_le he hi
  obtain ⟨hslot, -, hcfg⟩ := exec_loop he
  rcases t.retire_cases with ⟨⟨x, hx⟩, e⟩ | ⟨hx, e⟩
  · obtain ⟨hdec, rfl⟩ := eq_setRun_of_exec_waiting he hr hx
    rw [e]
    refine ⟨hm', hi', hs, fun y hy => ?_⟩
    obtain rfl : x = y := by simpa using hy
    exact ⟨hp, hlt, hdec⟩
  · rw [e]
    refine inv_of_not_waiting hm' hi' ?_ hx
    change t.slot + 1 ≤ t.cfg.ipf
    rw [hslot, hcfg]
    exact hlt

/-- Settles O9, by the transition the step takes (`step_cases`): each keeps the invariant by its own lemma. -/
theorem stepKeepsInvariant : Obligations.StepKeepsInvariant := by
  intro s t hinv h
  rcases step_cases h with ⟨-, rfl⟩ | ⟨x, hr, rfl⟩ | ⟨hr, -, rfl⟩ | ⟨hr, -, -, rfl⟩ | ⟨hr, hp, hlt, u, hu, rfl⟩
  · exact hinv
  · exact inv_resolveStep hinv hr
  · exact inv_pollStep hinv hr
  · exact inv_frameEndStep hinv hr
  · exact inv_retire_of_exec hinv hr hp hlt hu

end Sys2Proof.Machine
end

section
/-! The count of the current frame's batch (10_state.md R28). -/

namespace Sys2Proof.Machine

theorem batchCount_atPoll {s : State} (h : s.phase = .atPoll) : s.batchCount = 0 := by
  simp [State.batchCount, h]

theorem batchCount_inBatch {s : State} (h : s.phase = .inBatch) : s.batchCount = s.slot := by
  simp [State.batchCount, h]

theorem State.batchCount_le_slot (s : State) : s.batchCount ≤ s.slot := by
  cases h : s.phase
  · simp [batchCount_atPoll h]
  · simp [batchCount_inBatch h]

theorem batchCount_boot (cfg : Config) (program : List Byte) : (boot cfg program).batchCount = 0 :=
  batchCount_atPoll (by rw [boot_fields]; rfl)

/-- Halting or not, a poll leaves no instruction of the batch completed. -/
theorem batchCount_pollStep {s : State} (h : s.phase = .atPoll) : (pollStep s).batchCount = 0 := by
  rcases pollStep_cases s with e | e
  · rw [e]
    exact batchCount_atPoll h
  · rw [e]
    rfl

theorem batchCount_frameEndStep (s : State) : (frameEndStep s).batchCount = 0 := batchCount_atPoll rfl

/-- A poll completes no instruction. -/
theorem completedBy_atPoll {s : State} (t : State) (hr : s.run = .running) (hp : s.phase = .atPoll) :
    completedBy s t = 0 := by
  unfold completedBy
  rw [hr]
  split <;> simp_all

theorem batchCount_resolveStep {s : State} {x : RegIx} (hr : s.run = .waiting x) (hp : s.phase = .inBatch) :
    (resolveStep x s).batchCount = s.batchCount + completedBy s (resolveStep x s) := by
  rcases resolveStep_cases x s with ⟨-, e⟩ | ⟨k, rest, -, e⟩ | ⟨rest, -, e⟩
  · rw [e]; simp [completedBy, hr]
  · rw [e]; simp [completedBy, hr, State.batchCount, hp]
  · rw [e]; simp [completedBy, hr, State.batchCount, hp]

/-- A running machine's instruction counts exactly when the machine still runs after it. -/
theorem batchCount_retire_of_exec {s t : State} (hr : s.run = .running) (hp : s.phase = .inBatch)
    (hlt : s.slot < s.cfg.ipf) {i : Instr} (he : exec i s = .next t) :
    t.retire.batchCount = s.batchCount + completedBy s t.retire := by
  obtain ⟨hslot, hphase, -⟩ := exec_loop he
  rcases exec_run he with hrun | ⟨x, -, hrun⟩
  · simp [State.retire, completedBy, State.batchCount, hrun, hr, hp, hlt, hslot, hphase]
  · simp [State.retire, completedBy, State.batchCount, hrun, hr, hp, hslot, hphase]

theorem batchCount_step {s t : State} (hinv : s.Inv) (h : step s = .next t) (hne : ¬ s.atFrameEnd) :
    t.batchCount = s.batchCount + completedBy s t := by
  rcases step_cases h with ⟨hr, rfl⟩ | ⟨x, hr, rfl⟩ | ⟨hr, hp, rfl⟩ | ⟨hr, hp, hs, -⟩ | ⟨hr, hp, hlt, u, hu, rfl⟩
  · simp [completedBy, hr]
  · obtain ⟨-, -, -, hw⟩ := hinv
    exact batchCount_resolveStep hr (hw x hr).1
  · rw [batchCount_pollStep hp, batchCount_atPoll hp, completedBy_atPoll _ hr hp]
  · exact absurd ⟨hr, hp, hs⟩ hne
  · exact batchCount_retire_of_exec hr hp hlt hu

/-- Settles O56: a poll by `batchCount_pollStep`, the bound by the invariant after the step, the movement by
`batchCount_step`. -/
theorem slotIsZeroAtEveryPoll : Obligations.SlotIsZeroAtEveryPoll := by
  refine ⟨batchCount_boot, fun s t hr hp h => ?_, fun s t hinv h => ⟨?_, fun hend => ?_, batchCount_step hinv h⟩⟩
  · obtain rfl : pollStep s = t := by simpa [step_atPoll hr hp] using h
    exact ⟨batchCount_atPoll hp, batchCount_pollStep hp⟩
  · obtain ⟨-, -, hs, -⟩ := stepKeepsInvariant s t hinv h
    exact t.batchCount_le_slot.trans hs
  · obtain rfl : frameEndStep s = t := by simpa [step_atFrameEnd hend] using h
    exact batchCount_frameEndStep s

end Sys2Proof.Machine
end

section
/-! Memory: what a store leaves to be read, the canonical form as data, and the fetch of bytes that FX55 stored
(20_memory.md R32, R33, R36, R45). -/

namespace Sys2Proof.Machine

/-- Settles O27: it is the rule of one stored byte, `State.readByte_writeByte`. -/
theorem readAfterWrite : Obligations.ReadAfterWrite := fun s a b v => s.readByte_writeByte a b v

/-! ## The canonical form -/

/-- With rising addresses, the search finds exactly the listed cells. -/
theorem Memory.lookup_eq_some_iff {m : Memory} (hs : m.Pairwise fun c d => c.1 < d.1) (a : Nat) (b : Byte) :
    Memory.lookup m a = some b ↔ (a, b) ∈ m := by
  refine ⟨Memory.lookup_mem, fun hab => ?_⟩
  induction m with
  | nil => cases hab
  | cons d m ih =>
    obtain ⟨hd, hs⟩ := List.pairwise_cons.1 hs
    rcases List.mem_cons.1 hab with rfl | hab
    · simp [Memory.lookup]
    · rw [Memory.lookup, if_neg (hd _ hab).ne']
      exact ih hs hab

/-- A canonical memory lists exactly the bytes that read differently from the reset contents. -/
theorem Memory.mem_iff_read {cfg : Config} {m : Memory} (hm : Memory.wf cfg m) (c : Host.Cell) :
    c ∈ m ↔ c.1 < cfg.memSize ∧ Memory.read cfg m c.1 = c.2 ∧ c.2 ≠ resetByte cfg c.1 := by
  obtain ⟨hs, hcells⟩ := hm
  rw [← Memory.lookup_eq_some_iff hs, Memory.read]
  constructor
  · intro h
    obtain ⟨hlt, hne⟩ := hcells c (Memory.lookup_mem h)
    exact ⟨hlt, by rw [h, Option.getD_some], hne⟩
  · rintro ⟨-, hread, hne⟩
    cases h : Memory.lookup m c.1 with
    | none => exact absurd (by rw [← hread, h, Option.getD_none]) hne
    | some b => rw [← hread, h, Option.getD_some]

/-- Settles O28: the cells of a canonical memory are fixed by its reads (`Memory.mem_iff_read`), and rising
addresses fix their order. -/
theorem canonicalMemoriesThatReadAlikeAreEqual : Obligations.CanonicalMemoriesThatReadAlikeAreEqual := by
  intro cfg m m' hm hm' hread
  have hcells (c : Host.Cell) : c ∈ m ↔ c ∈ m' := by
    rw [Memory.mem_iff_read hm, Memory.mem_iff_read hm']
    exact and_congr_right fun hlt => by rw [hread c.1 hlt]
  have hirrefl : Std.Irrefl fun c d : Host.Cell => c.1 < d.1 := ⟨fun c => lt_irrefl c.1⟩
  have hasymm : Std.Antisymm fun c d : Host.Cell => c.1 < d.1 := ⟨fun _ _ h h' => absurd h' h.not_gt⟩
  obtain ⟨hs, -⟩ := hm
  obtain ⟨hs', -⟩ := hm'
  exact hs.eq_of_mem_iff hs' hcells

/-! ## The fetch of a stored run -/

/-- Every stored register reads back after FX55's stores: the 16 bytes at most are fewer than MEM_SIZE, so none
overwrites another. -/
theorem State.readByte_writeBytes_regRun (s : State) (a : Nat) {x k : RegIx} (h : k.toNat ≤ x.toNat) :
    (s.writeBytes a (s.regRun x)).readByte (a + k.toNat) = s.reg k := by
  have hx := x.isLt
  have hsize := s.cfg.memSize_low
  rw [State.readByte_writeBytes _ _ _ _ (by rw [State.length_regRun]; omega)
    (by rw [State.length_regRun]; omega), State.getElem_regRun, BitVec.ofNat_toNat, BitVec.setWidth_eq]

/-- I + k is not cut to 16 bits when I is a 12-bit address. -/
theorem toNat_add_zeroExtend {i : Word} {k : RegIx} (hi : i.toNat ≤ 0xFFF) :
    (i + k.zeroExtend 16).toNat = i.toNat + k.toNat := by
  bv_omega

/-- A register below another has the next number, without wrapping. -/
theorem toNat_add_one_of_lt {x k : RegIx} (h : k.toNat < x.toNat) : (k + 1).toNat = k.toNat + 1 := by
  bv_omega

/-- Settles O29: the two fetched addresses hold V[k] and V[k+1] by `State.readByte_writeBytes_regRun`, and the fetch
puts the lower one in the high half. -/
theorem fetchSeesStoredRegisters : Obligations.FetchSeesStoredRegisters := by
  intro s x k hk hi
  refine ⟨(s.writeBytes s.i.toNat (s.regRun x)).advance, rfl, ?_⟩
  have hlow := s.readByte_writeBytes_regRun s.i.toNat hk.le
  have hhigh : (s.writeBytes s.i.toNat (s.regRun x)).readByte (s.i.toNat + k.toNat + 1) = s.reg (k + 1) := by
    rw [Nat.add_assoc, ← toNat_add_one_of_lt hk]
    exact s.readByte_writeBytes_regRun s.i.toNat (by rw [toNat_add_one_of_lt hk]; omega)
  simp only [State.fetch, wordOfBytes, State.setPc_pc, State.setPc_readByte, State.advance_readByte,
    toNat_add_zeroExtend hi, hlow, hhigh]

end Sys2Proof.Machine
end

section
/-! The encoding (30_encoding.md): the fields of a word, decode and encode as inverses, and the row of the opcode
map that a word decodes to (R49 to R59). -/

namespace Sys2Proof

/-! ## Fields (R50, R51) -/

theorem kkField_eq_append (w : Word) : kkField w = n2 w ++ n3 w :=
  (BitVec.extractLsb'_append_extractLsb'_eq_extractLsb' (x := w) (start₁ := 0) (len₁ := 4) (len₂ := 4) rfl).symm

theorem nnnField_eq_append (w : Word) : nnnField w = n1 w ++ n2 w ++ n3 w := by
  rw [BitVec.append_assoc, ← kkField_eq_append]
  exact (BitVec.extractLsb'_append_extractLsb'_eq_extractLsb' (x := w) (start₁ := 0) (len₁ := 8) (len₂ := 4)
    rfl).symm

/-- Settles O4: the word is `wordXYN a b c d`, whose nibbles are known, and the wider fields of any word are the
concatenations of its nibbles. -/
theorem fieldsAreNibbleConcatenations : Obligations.FieldsAreNibbleConcatenations := by
  intro a b c d
  change n0 (wordXYN a b c d) = a ∧ n1 (wordXYN a b c d) = b ∧ n2 (wordXYN a b c d) = c ∧
    n3 (wordXYN a b c d) = d ∧ kkField (wordXYN a b c d) = c ++ d ∧ nnnField (wordXYN a b c d) = b ++ c ++ d
  simp [kkField_eq_append, nnnField_eq_append]

@[simp] theorem n2_wordXKK (c : Nibble) (x : RegIx) (kk : Byte) :
    n2 (wordXKK c x kk) = kk.extractLsb' 4 4 := extract_append_low _ _ (by omega)

@[simp] theorem n3_wordXKK (c : Nibble) (x : RegIx) (kk : Byte) :
    n3 (wordXKK c x kk) = kk.extractLsb' 0 4 := extract_append_low _ _ (by omega)

section

variable (w m : Word)

@[simp] theorem n0_and : n0 (w &&& m) = n0 w &&& n0 m := BitVec.extractLsb'_and

@[simp] theorem n1_and : n1 (w &&& m) = n1 w &&& n1 m := BitVec.extractLsb'_and

@[simp] theorem n2_and : n2 (w &&& m) = n2 w &&& n2 m := BitVec.extractLsb'_and

@[simp] theorem n3_and : n3 (w &&& m) = n3 w &&& n3 m := BitVec.extractLsb'_and

@[simp] theorem kkField_and : kkField (w &&& m) = kkField w &&& kkField m := BitVec.extractLsb'_and

end

theorem word_eq_iff {w w' : Word} :
    w = w' ↔ n0 w = n0 w' ∧ n1 w = n1 w' ∧ n2 w = n2 w' ∧ n3 w = n3 w' := by
  constructor
  · rintro rfl
    exact ⟨rfl, rfl, rfl, rfl⟩
  · rintro ⟨h0, h1, h2, h3⟩
    rw [← wordXYN_fields w, h0, h1, h2, h3, wordXYN_fields]

/-! ## Decode and encode are inverses (R52, R59) -/

/-- Settles O5: closed words, which the decoder computes. -/
theorem sampleWordsDecodeAsListed : Obligations.SampleWordsDecodeAsListed := by
  unfold Obligations.SampleWordsDecodeAsListed
  decide

open Laws.EncodeRoundTrip in
/-- Settles O1, by the round trip of each constructor. -/
theorem decodeOfEncodeIsIdentity : Obligations.DecodeOfEncodeIsIdentity
  | .cls => cls
  | .ret => ret
  | .sys nnn => sys nnn
  | .jp nnn => jp nnn
  | .call nnn => call nnn
  | .seImm x kk => seImm x kk
  | .sneImm x kk => sneImm x kk
  | .seReg x y ignored => seReg x y ignored
  | .ldImm x kk => ldImm x kk
  | .addImm x kk => addImm x kk
  | .mov x y => mov x y
  | .orReg x y => orReg x y
  | .andReg x y => andReg x y
  | .xorReg x y => xorReg x y
  | .addReg x y => addReg x y
  | .subReg x y => subReg x y
  | .shr x y => shr x y
  | .subn x y => subn x y
  | .shl x y => shl x y
  | .nop8 x y s => nop8 x y s
  | .sneReg x y ignored => sneReg x y ignored
  | .ldI nnn => ldI nnn
  | .jpV0 nnn => jpV0 nnn
  | .rnd x kk => rnd x kk
  | .drw x y n => drw x y n
  | .skp x => skp x
  | .sknp x => sknp x
  | .nopE x s => nopE x s
  | .ldVxDt x => ldVxDt x
  | .ldVxK x => ldVxK x
  | .ldDtVx x => ldDtVx x
  | .ldStVx x => ldStVx x
  | .addI x => addI x
  | .ldF x => ldF x
  | .ldB x => ldB x
  | .ldMemVx x => ldMemVx x
  | .ldVxMem x => ldVxMem x
  | .nopF x s => nopF x s

theorem decode_class8 {w : Word} (h : n0 w = 0x8#4) : decode w = decode8 (n1 w) (n2 w) (n3 w) := by
  simp [decode, h]

theorem decode_classE {w : Word} (h : n0 w = 0xE#4) : decode w = decodeE (n1 w) (kkField w) := by
  simp [decode, h]

theorem decode_classF {w : Word} (h : n0 w = 0xF#4) : decode w = decodeF (n1 w) (kkField w) := by
  simp [decode, h]

/-- Every word decodes to a well-formed instruction that it encodes: class by class, the decoded fields are put
back in the format they were read from. -/
theorem decode_spec (w : Word) : WellFormed (decode w) ∧ encode (decode w) = w := by
  have hNNN {c : Nibble} (h : n0 w = c) : wordNNN c (nnnField w) = w := h ▸ wordNNN_fields w
  have hXKK {c : Nibble} (h : n0 w = c) : wordXKK c (n1 w) (kkField w) = w := h ▸ wordXKK_fields w
  have hXYN {c : Nibble} (h : n0 w = c) : wordXYN c (n1 w) (n2 w) (n3 w) = w := h ▸ wordXYN_fields w
  unfold decode
  split
  case h_1 h => exact decode0_spec w h
  case h_9 h => exact (decode8_spec _ _ _).imp_right (·.trans (hXYN h))
  case h_15 h => exact (decodeE_spec _ _).imp_right (·.trans (hXKK h))
  case h_16 =>
    have h : n0 w = 0xF#4 := (nibble_cases (n0 w)).resolve_left (by simp_all)
    exact (decodeF_spec _ _).imp_right (·.trans (hXKK h))
  case h_2 | h_3 | h_11 | h_12 => exact ⟨rfl, hNNN ‹_›⟩
  case h_6 | h_10 | h_14 => exact ⟨rfl, hXYN ‹_›⟩
  all_goals exact ⟨rfl, hXKK ‹_›⟩

/-! ## The row of an instruction (R49, R56) -/

theorem Instr.rowNumber_lt (i : Instr) : i.rowNumber - 1 < opcodeMap.length := by
  cases i <;> exact of_decide_eq_true rfl

/-- The row of the opcode map that an instruction belongs to (R56): the one with its number (`Instr.number_row`). -/
def Instr.row (i : Instr) : OpcodeRow := opcodeMap[i.rowNumber - 1]'i.rowNumber_lt

theorem Instr.row_mem (i : Instr) : i.row ∈ opcodeMap := List.getElem_mem _

theorem Instr.number_row (i : Instr) : i.row.number = i.rowNumber := by cases i <;> rfl

theorem opcodeMap_number_nodup : (opcodeMap.map OpcodeRow.number).Nodup := by decide

theorem Instr.eq_row_of_number {i : Instr} {r : OpcodeRow} (hr : r ∈ opcodeMap) (h : r.number = i.rowNumber) :
    r = i.row :=
  List.inj_on_of_nodup_map opcodeMap_number_nodup hr i.row_mem (h.trans i.number_row.symm)

/-- Settles O2: `decode_spec` gives the word back, and no two rows share a number. -/
theorem everyWordIsOneRow : Obligations.EveryWordIsOneRow := by
  intro w
  obtain ⟨hwf, henc⟩ := decode_spec w
  exact ⟨hwf, henc, (decode w).row, Instr.row_mem _, Instr.number_row _, fun _ => Instr.eq_row_of_number⟩

/-! ## The most specific row (R57) -/

/-- A row matches nibble by nibble. The row's side is spelled as extracts, which `simp` computes on literals. -/
theorem OpcodeRow.matches_iff (r : OpcodeRow) (w : Word) : r.matches w = true ↔
    n0 w &&& r.mask.extractLsb' 12 4 = r.matchBits.extractLsb' 12 4 ∧
    n1 w &&& r.mask.extractLsb' 8 4 = r.matchBits.extractLsb' 8 4 ∧
    n2 w &&& r.mask.extractLsb' 4 4 = r.matchBits.extractLsb' 4 4 ∧
    n3 w &&& r.mask.extractLsb' 0 4 = r.matchBits.extractLsb' 0 4 := by
  rw [OpcodeRow.matches, beq_iff_eq, word_eq_iff, n0_and, n1_and, n2_and, n3_and]
  rfl

theorem nibble_and_mask (a : Nibble) : a &&& 0xF#4 = a := BitVec.and_allOnes

/-- Every instruction's word matches the instruction's row: the nibbles that the mask keeps are constants of the
row's format. -/
theorem Instr.row_matches_encode (i : Instr) : i.row.matches (encode i) = true := by
  cases i
  case cls | ret => decide
  all_goals
    simp [OpcodeRow.matches_iff, Instr.row, Instr.rowNumber, opcodeMap, opcodeRowsLow, opcodeRowsHigh, encode,
      nibble_and_mask]

/-- The row of a class-8 word depends on n3 alone; so for the low byte in classes E and F. -/
theorem row_decode8 (x y x' y' : RegIx) (s : Nibble) : (decode8 x y s).row = (decode8 x' y' s).row := by
  unfold decode8
  split <;> rfl

theorem row_decodeE (x x' : RegIx) (s : Byte) : (decodeE x s).row = (decodeE x' s).row := by
  unfold decodeE
  split <;> rfl

theorem row_decodeF (x x' : RegIx) (s : Byte) : (decodeF x s).row = (decodeF x' s).row := by
  unfold decodeF
  split <;> rfl

/-- Besides the rows that compare the primary opcode alone, a row compares the whole word, or n0 and n3 in class 8,
or n0 and the low byte in classes E and F. -/
theorem mask_cases : ∀ r ∈ opcodeMap, r.mask = 0xF000 ∨ r.mask = 0xFFFF ∨
    (r.mask = 0xF00F ∧ n0 r.matchBits = 0x8#4) ∨
    (r.mask = 0xF0FF ∧ (n0 r.matchBits = 0xE#4 ∨ n0 r.matchBits = 0xF#4)) := by decide

theorem row_decode_matchBits : ∀ r ∈ opcodeMap, r.mask ≠ 0xF000 → (decode r.matchBits).row = r := by decide

/-- A row that compares more than the primary opcode is the row of every word it matches: the decoder looks only at
fields that the mask keeps, so the word decodes to the row of `r.matchBits`, which is `r`. -/
theorem row_decode_of_matches {w : Word} {r : OpcodeRow} (hr : r ∈ opcodeMap) (hmask : r.mask ≠ 0xF000)
    (h : r.matches w = true) : (decode w).row = r := by
  rw [OpcodeRow.matches, beq_iff_eq] at h
  rw [← row_decode_matchBits r hr hmask]
  rcases mask_cases r hr with hm | hm | ⟨hm, hc⟩ | ⟨hm, hc⟩
  · exact absurd hm hmask
  · have hw : r.matchBits = w := by rw [← h, hm]; exact BitVec.and_allOnes
    rw [hw]
  · have h0 : n0 r.matchBits = n0 w := by rw [← h, hm, n0_and]; exact BitVec.and_allOnes
    have h3 : n3 r.matchBits = n3 w := by rw [← h, hm, n3_and]; exact BitVec.and_allOnes
    rw [decode_class8 hc, decode_class8 (h0 ▸ hc), h3]
    exact row_decode8 _ _ _ _ _
  · have h0 : n0 r.matchBits = n0 w := by rw [← h, hm, n0_and]; exact BitVec.and_allOnes
    have hkk : kkField r.matchBits = kkField w := by rw [← h, hm, kkField_and]; exact BitVec.and_allOnes
    rcases hc with hc | hc
    · rw [decode_classE hc, decode_classE (h0 ▸ hc), hkk]
      exact row_decodeE _ _ _
    · rw [decode_classF hc, decode_classF (h0 ▸ hc), hkk]
      exact row_decodeF _ _ _

/-- Two rows that match one word agree on the bits that both masks keep. -/
theorem OpcodeRow.matchBits_and_mask_comm {r r' : OpcodeRow} {w : Word} (h : r.matches w = true)
    (h' : r'.matches w = true) : r.matchBits &&& r'.mask = r'.matchBits &&& r.mask := by
  rw [OpcodeRow.matches, beq_iff_eq] at h h'
  rw [← h, ← h']
  ac_rfl

/-- A row that compares the primary opcode alone has fewer mask bits than every other row of its class. -/
theorem maskBits_lt_of_primary : ∀ r ∈ opcodeMap, ∀ r' ∈ opcodeMap, r'.mask = 0xF000 →
    r.matchBits &&& r'.mask = r'.matchBits &&& r.mask → r' = r ∨ r'.maskBits < r.maskBits := by decide

/-- Settles O3: another matching row compares the primary opcode alone, because every other kind of row is the
decoded row of each word it matches (`row_decode_of_matches`); such a row is the least specific of its class. -/
theorem decodeTakesMostSpecificRow : Obligations.DecodeTakesMostSpecificRow := by
  intro w
  have hmatch : (decode w).row.matches w = true := by
    simpa only [(decode_spec w).2] using (decode w).row_matches_encode
  refine ⟨(decode w).row, Instr.row_mem _, Instr.number_row _, hmatch, fun r' hr' hmatch' => ?_⟩
  by_cases hmask : r'.mask = 0xF000
  · exact maskBits_lt_of_primary _ (Instr.row_mem _) r' hr' hmask (OpcodeRow.matchBits_and_mask_comm hmatch hmatch')
  · exact .inl (row_decode_of_matches hr' hmask hmatch').symm

end Sys2Proof
end

section
/-! Shared by the instruction families: the one word of a well-formed instruction, and the parts of the state that a
shared operation leaves as they are. -/

namespace Sys2Proof

/-- A well-formed instruction has one word, its encoding. -/
theorem decode_eq_iff {w : Word} {i : Instr} (hi : WellFormed i) : decode w = i ↔ w = encode i := by
  constructor
  · rintro rfl
    exact (decode_spec w).2.symm
  · rintro rfl
    exact decodeOfEncodeIsIdentity i hi

end Sys2Proof

namespace Sys2Proof.Machine

/-! ## Frames -/

theorem Part.same.trans {s t u : State} {p : Part} (h : p.same s t) (h' : p.same t u) : p.same s u := by
  cases p
  case regs | keys | memory => exact fun a => (h' a).trans (h a)
  case screen => exact fun row col => (h' row col).trans (h row col)
  all_goals simp_all [Part.same]

theorem Part.same_advance (s : State) (p : Part) : p.same s s.advance := by
  cases p <;> simp [Part.same]

theorem Part.same_setReg (s : State) (x : RegIx) (b : Byte) {p : Part} (hp : p ≠ .regs) :
    p.same s (s.setReg x b) := by
  cases p
  case regs => exact absurd rfl hp
  all_goals simp [Part.same]

theorem Part.same_setFb (s : State) (fb : Framebuffer) {p : Part} (hp : p ≠ .screen) : p.same s (s.setFb fb) := by
  cases p
  case screen => exact absurd rfl hp
  all_goals simp [Part.same]

end Sys2Proof.Machine
end

section
/-! The display: CLS, DRW, and a sprite drawn twice (40_display.md R64, R65). -/

namespace Sys2Proof.Machine

/-! ## CLS (R64) -/

@[simp] theorem pixel_blankScreen (row : Fin 32) (col : Fin 64) : Framebuffer.pixel blankScreen row col = false := by
  simp [Framebuffer.pixel, blankScreen]

/-- Settles O30: CLS has one word (`decode_eq_iff`), and writes the blank screen and pc alone. -/
theorem clearScreenClearsEveryPixel : Obligations.ClearScreenClearsEveryPixel := by
  refine ⟨fun w => decode_eq_iff rfl, fun s => ⟨(s.setFb blankScreen).advance, rfl, rfl, pixel_blankScreen, ?_⟩⟩
  intro p hp
  exact (Part.same_setFb s _ (List.ne_of_not_mem_cons hp)).trans (Part.same_advance _ p)

/-! ## DRW (R65) -/

theorem flagByte_eq_one_or_zero (c : Bool) : flagByte c = 1 ∨ flagByte c = 0 := by
  cases c
  · exact .inr rfl
  · exact .inl rfl

theorem flagByte_eq_one_iff (c : Bool) : flagByte c = 1 ↔ c = true := by
  cases c <;> decide

theorem State.reg_vf_setFlag (s : State) (c : Bool) : (s.setFlag c).reg 0xF#4 = flagByte c :=
  s.reg_setReg_same vf _

/-- Settles O31: the drawing loop agrees with the closed form of the sprite (`State.drawn_spec`); besides FB, DRW
writes VF and pc alone. -/
theorem drawXorsSpriteAndFlagsCollision : Obligations.DrawXorsSpriteAndFlagsCollision := by
  refine fun x y n => ⟨decodeOfEncodeIsIdentity (.drw x y n) rfl, fun s => ?_⟩
  obtain ⟨hpixel, hcollision⟩ := s.drawn_spec x y n
  refine ⟨((s.setFb (s.drawn x y n).1).setFlag (s.drawn x y n).2).advance, rfl, rfl, hpixel, ?_, ?_, ?_, ?_⟩
  · rw [State.advance_reg, State.reg_vf_setFlag]
    exact flagByte_eq_one_or_zero _
  · rw [State.advance_reg, State.reg_vf_setFlag, flagByte_eq_one_iff, hcollision]
  · intro r hr
    exact State.reg_setReg_ne _ _ (List.ne_of_not_mem_cons hr)
  · intro p hp
    obtain ⟨hregs, hp⟩ := List.ne_and_not_mem_of_not_mem_cons hp
    exact ((Part.same_setFb s _ (List.ne_of_not_mem_cons hp)).trans (Part.same_setReg _ _ _ hregs)).trans
      (Part.same_advance _ p)

/-- The sprite is read from I, from memory and from the two coordinate registers. -/
theorem State.spriteBit_congr {s t : State} {x y : RegIx} (hx : t.reg x = s.reg x) (hy : t.reg y = s.reg y)
    (hi : t.i = s.i) (hmem : ∀ a, t.readByte a = s.readByte a) (n : Nibble) :
    t.spriteBit x y n = s.spriteBit x y n := by
  funext row col
  simp only [State.spriteBit, hx, hy, hi, hmem]

/-- Settles O32 from O31 at each draw: the first keeps I and memory, so both draw the same sprite, and a pixel XORed
twice with its bit is as before. On a bit 1 the second draw finds a set pixel where the first one found it clear. -/
theorem drawingTwiceRestoresTheScreen : Obligations.DrawingTwiceRestoresTheScreen := by
  intro x y n s t ht hx hy
  obtain ⟨-, hdraw⟩ := drawXorsSpriteAndFlagsCollision x y n
  obtain ⟨t', ht', -, hfb, -, -, -, hframe⟩ := hdraw s
  obtain rfl : t' = t := Host.Outcome.next.inj (ht'.symm.trans ht)
  obtain ⟨u, hu, -, hfb', -, hflag, -⟩ := hdraw t'
  have hsprite : t'.spriteBit x y n = s.spriteBit x y n :=
    State.spriteBit_congr hx hy (hframe .index (by decide)) (hframe .memory (by decide)) n
  simp only [hsprite, hfb] at hfb' hflag
  refine ⟨u, hu, fun row col => ?_, hflag.trans ?_⟩
  · rw [hfb', Bool.xor_assoc, Bool.xor_self, Bool.xor_false]
  · refine exists_congr fun row => exists_congr fun col => and_congr_right fun hbit => ?_
    rw [hbit, Bool.xor_true, Bool.not_eq_true']

end Sys2Proof.Machine
end

section
/-! Control flow: jumps, CALL and RET, the skips, and the words that only advance pc (41_control_flow.md R66 to R76,
45_noop_space.md R103). -/

namespace Sys2Proof.Machine

/-! ## The program counter (R66) -/

/-- pc is in none of the parts. -/
theorem Part.same_setPc (s : State) (a : Word) (p : Part) : p.same s (s.setPc a) := by
  cases p <;> simp [Part.same]

theorem sameBut_setPc (parts : List Part) (s : State) (a : Word) : SameBut parts s (s.setPc a) :=
  fun p _ => Part.same_setPc s a p

/-- Everything a conditional skip does, with the condition as a proposition. -/
theorem State.skipIf_spec (s : State) {c : Bool} {P : Prop} [Decidable P] (h : c = true ↔ P) :
    (s.skipIf c).pc = (if P then s.pc + 4 else s.pc + 2) ∧ SameBut [] s (s.skipIf c) := by
  constructor
  · simp only [State.skipIf_pc, h]
  · rw [State.skipIf_eq]
    exact sameBut_setPc [] s _

/-! ## Jumps (R69, R71) -/

theorem toNat_addressOf (nnn : Addr12) : (addressOf nnn).toNat = nnn.toNat :=
  BitVec.toNat_setWidth_of_le (by decide)

/-- The sum of a 12-bit address and a byte fits in 16 bits. -/
theorem toNat_jumpTarget (nnn : Addr12) (b : Byte) : (jumpTarget nnn b).toNat = nnn.toNat + b.toNat := by
  have hb : (b.zeroExtend 16).toNat = b.toNat := BitVec.toNat_setWidth_of_le (by decide)
  rw [jumpTarget, BitVec.toNat_add, toNat_addressOf, hb]
  omega

/-- Settles O36: JP writes pc alone. -/
theorem jumpGoesToAddress : Obligations.JumpGoesToAddress := fun nnn =>
  ⟨decodeOfEncodeIsIdentity (.jp nnn) rfl,
    fun s => ⟨s.setPc (addressOf nnn), rfl, toNat_addressOf nnn, sameBut_setPc [] s _⟩⟩

/-- Settles O37: the target is the sum as a number (`toNat_jumpTarget`). -/
theorem jumpV0AddsV0Unmasked : Obligations.JumpV0AddsV0Unmasked := fun nnn =>
  ⟨decodeOfEncodeIsIdentity (.jpV0 nnn) rfl,
    fun s => ⟨s.setPc (jumpTarget nnn (s.reg 0)), rfl, toNat_jumpTarget nnn _, sameBut_setPc [] s _⟩⟩

/-! ## Skips (R73 to R76) -/

/-- Settles O38: both are skips (`State.skipIf_spec`), on the comparison of Vx with the immediate. -/
theorem skipsOnImmediate : Obligations.SkipsOnImmediate := fun x kk =>
  ⟨decodeOfEncodeIsIdentity (.seImm x kk) rfl, decodeOfEncodeIsIdentity (.sneImm x kk) rfl,
    fun s => ⟨⟨_, rfl, s.skipIf_spec beq_iff_eq⟩, ⟨_, rfl, s.skipIf_spec bne_iff_ne⟩⟩⟩

/-- Settles O39: both are skips (`State.skipIf_spec`), on the comparison of the two registers. -/
theorem skipsOnRegister : Obligations.SkipsOnRegister := fun x y n =>
  ⟨decodeOfEncodeIsIdentity (.seReg x y n) rfl, decodeOfEncodeIsIdentity (.sneReg x y n) rfl,
    fun s => ⟨⟨_, rfl, s.skipIf_spec beq_iff_eq⟩, ⟨_, rfl, s.skipIf_spec bne_iff_ne⟩⟩⟩

/-! ## The no-op words (R68, R103) -/

/-- Settles O40: the conditions on the words are the well-formedness of the no-op terms, so decode gives each term
back from its encoding; each of the four only advances pc. -/
theorem unassignedWordsOnlyAdvance : Obligations.UnassignedWordsOnlyAdvance := by
  refine ⟨fun nnn hcls hret => ?_, fun x y s hs => ?_, fun x s hs => ?_, fun x s hs => ?_, fun i hi s => ?_⟩
  · exact decodeOfEncodeIsIdentity (.sys nnn) (Bool.and_eq_true_iff.2 ⟨bne_iff_ne.2 hcls, bne_iff_ne.2 hret⟩)
  · exact decodeOfEncodeIsIdentity (.nop8 x y s) (List.contains_iff_mem.2 hs)
  · exact decodeOfEncodeIsIdentity (.nopE x s) (by simpa [WellFormed, Instr.wellFormed] using hs)
  · exact decodeOfEncodeIsIdentity (.nopF x s) (by simpa [WellFormed, Instr.wellFormed] using hs)
  · refine ⟨s.advance, ?_, rfl, sameBut_setPc [] s _⟩
    obtain ⟨nnn, rfl⟩ | ⟨x, y, sub, rfl⟩ | ⟨x, sub, rfl⟩ | ⟨x, sub, rfl⟩ := hi <;> rfl

/-! ## The return stack (R20, R21) -/

theorem State.push_of_full {s : State} (h : s.sp.val = 16) (a : Word) : s.push a = s :=
  if_neg (by omega)

theorem State.sp_push {s : State} (h : s.sp.val < 16) (a : Word) : (s.push a).sp.val = s.sp.val + 1 := by
  rw [State.push, if_pos h]
  exact Nat.mod_eq_of_lt (by omega)

theorem State.stackAt_push {s : State} (h : s.sp.val < 16) (a : Word) (j : Fin 16) :
    (s.push a).stackAt j = if j.val = s.sp.val then a else s.stackAt j := by
  rw [State.push, if_pos h]
  simp [State.stackAt, Vector.getElem_set, Nat.mod_eq_of_lt h, eq_comm]

theorem State.sp_drop (s : State) : s.drop.sp.val = s.sp.val - 1 :=
  Nat.mod_eq_of_lt (by omega)

theorem State.top_eq_stackAt {s : State} {j : Fin 16} (h : s.sp.val = j.val + 1) : s.top = s.stackAt j := by
  have hj : Fin.ofNat 16 (s.sp.val - 1) = j := Fin.ext (by simp [h])
  rw [State.top, hj]

theorem Part.same_push (s : State) (a : Word) {p : Part} (hp : p ≠ .stack) : p.same s (s.push a) := by
  cases p
  case stack => exact absurd rfl hp
  all_goals simp [Part.same]

theorem Part.same_drop (s : State) {p : Part} (hp : p ≠ .stack) : p.same s s.drop := by
  cases p
  case stack => exact absurd rfl hp
  all_goals simp [Part.same]

/-! ## CALL and RET (R67, R72) -/

theorem exec_ret_empty {s : State} (h : s.sp.val = 0) : exec .ret s = .next s.advance :=
  congrArg _ (if_pos (Fin.ext h))

theorem exec_ret_nonempty {s : State} (h : s.sp.val ≠ 0) : exec .ret s = .next (s.drop.setPc (s.top + 2)) :=
  congrArg _ (if_neg fun h0 => h (congrArg Fin.val h0))

/-- Settles O33, by whether the stack is empty. -/
theorem returnPopsOrIsNoOp : Obligations.ReturnPopsOrIsNoOp := by
  refine ⟨fun w => decode_eq_iff rfl, fun s => ?_⟩
  by_cases hsp : s.sp.val = 0
  · exact ⟨s.advance, exec_ret_empty hsp, fun _ => ⟨rfl, hsp⟩, fun j hj => by omega, fun _ => rfl,
      sameBut_setPc _ s _⟩
  · refine ⟨s.drop.setPc (s.top + 2), exec_ret_nonempty hsp, fun h0 => absurd h0 hsp, fun j hj => ⟨?_, ?_⟩,
      fun _ => rfl, fun p hp => ?_⟩
    · rw [State.setPc_sp, State.sp_drop, hj, Nat.add_sub_cancel]
    · rw [State.setPc_pc, State.top_eq_stackAt hj]
    · exact (Part.same_drop s (List.ne_of_not_mem_cons hp)).trans (Part.same_setPc _ _ p)

/-- Settles O34: the jump is the same in both cases, and the stack is what the push leaves. -/
theorem callPushesUnlessFullAndJumps : Obligations.CallPushesUnlessFullAndJumps := by
  refine fun nnn => ⟨decodeOfEncodeIsIdentity (.call nnn) rfl, fun s => ?_⟩
  refine ⟨(s.push s.pc).setPc (addressOf nnn), rfl, toNat_addressOf nnn, fun hlt => ?_, fun hfull => ?_,
    fun p hp => ?_⟩
  · exact ⟨State.sp_push hlt s.pc, State.stackAt_push hlt s.pc⟩
  · rw [State.push_of_full hfull]
    exact ⟨rfl, fun _ => rfl⟩
  · exact (Part.same_push s s.pc (List.ne_of_not_mem_cons hp)).trans (Part.same_setPc _ _ p)

/-- Settles O35 from O34 and O33: CALL leaves SP one above the entry that holds its address, and RET pops that
entry; pc between the two is read by neither. -/
theorem callThenReturnResumesAfterCall : Obligations.CallThenReturnResumesAfterCall := by
  intro nnn s p hlt
  obtain ⟨t, ht, -, hpush, -⟩ := (callPushesUnlessFullAndJumps nnn).2 s
  obtain ⟨hsp, hstack⟩ := hpush hlt
  obtain ⟨u, hu, -, hpop, -⟩ := returnPopsOrIsNoOp.2 (t.setPc p)
  obtain ⟨husp, hupc⟩ := hpop ⟨s.sp.val, hlt⟩ hsp
  refine ⟨t, u, ht, hu, ?_, Fin.ext husp⟩
  rw [hupc, State.setPc_stackAt, hstack, if_pos rfl]

end Sys2Proof.Machine
end

section
/-! The ALU: loads, copies, sums, differences, shifts and the random draw (42_alu.md R77 to R90). Every one of these
instructions is a register write, with a flag (`State.writeFlagged_spec`) or without (`State.write_spec`). -/

namespace Sys2Proof.Machine

/-! ## What a result writes (R11, R16) -/

/-- Everything a result without a flag does. -/
theorem State.write_spec (s : State) (x : RegIx) (b : Byte) :
    ∃ t, s.write x b = .next t ∧ t.reg x = b ∧ t.pc = s.pc + 2 ∧ RegsBut [x] s t ∧ SameBut [.regs] s t := by
  refine ⟨(s.setReg x b).advance, rfl, s.reg_setReg_same x b, rfl, fun r hr => ?_, fun p hp => ?_⟩
  · exact s.reg_setReg_ne b (List.ne_of_not_mem_cons hr)
  · exact (Part.same_setReg s x b (List.ne_of_not_mem_cons hp)).trans (Part.same_advance _ p)

/-- Everything a result with a flag does. VF is written last, so it holds the flag when it is the destination too. -/
theorem State.writeFlagged_spec (s : State) (x : RegIx) (b : Byte) (c : Bool) :
    ∃ t, s.writeFlagged x b c = .next t ∧ (x ≠ 0xF#4 → t.reg x = b) ∧ t.reg 0xF#4 = flagByte c ∧
      t.pc = s.pc + 2 ∧ RegsBut [x, 0xF#4] s t ∧ SameBut [.regs] s t := by
  refine ⟨((s.setReg x b).setFlag c).advance, rfl, fun hx => ?_, State.reg_vf_setFlag _ c, rfl, fun r hr => ?_,
    fun p hp => ?_⟩
  · exact (State.reg_setReg_ne _ _ hx).trans (s.reg_setReg_same x b)
  · obtain ⟨hx, hr⟩ := List.ne_and_not_mem_of_not_mem_cons hr
    exact (State.reg_setReg_ne _ _ (List.ne_of_not_mem_cons hr)).trans (s.reg_setReg_ne b hx)
  · have hregs : p ≠ .regs := List.ne_of_not_mem_cons hp
    exact ((Part.same_setReg s x b hregs).trans (Part.same_setReg _ vf _ hregs)).trans (Part.same_advance _ p)

/-! ## Results and flags as numbers (R89) -/

theorem toNat_sumByte (a b : Byte) : (sumByte a b).toNat = (a.toNat + b.toNat) % 256 :=
  BitVec.toNat_ofNat _ _

theorem toNat_diffByte (a b : Byte) : (diffByte a b).toNat = (a.toNat + 256 - b.toNat) % 256 := by
  rw [diffByte, BitVec.toNat_ofInt]
  omega

theorem toNat_shiftedRight (a : Byte) : (shiftedRight a).toNat = a.toNat / 2 := by
  rw [shiftedRight, BitVec.toNat_ushiftRight, Nat.shiftRight_one]

theorem toNat_shiftedLeft (a : Byte) : (shiftedLeft a).toNat = a.toNat * 2 % 256 := by
  rw [shiftedLeft, BitVec.toNat_shiftLeft, Nat.shiftLeft_eq]

theorem flagByte_decide (P : Prop) [Decidable P] : flagByte (decide P) = if P then 1 else 0 := by
  simp only [flagByte, decide_eq_true_eq]

theorem toNat_flagByte (c : Bool) : (flagByte c).toNat = c.toNat := by
  cases c <;> rfl

theorem toNat_flagByte_lowBit (a : Byte) : (flagByte (lowBit a)).toNat = a.toNat % 2 := by
  rw [toNat_flagByte, lowBit, BitVec.getLsbD, Nat.toNat_testBit, pow_zero, Nat.div_one]

theorem toNat_flagByte_highBit (a : Byte) : (flagByte (highBit a)).toNat = a.toNat / 128 := by
  rw [toNat_flagByte, highBit, BitVec.getLsbD, Nat.toNat_testBit]
  omega

/-! ## Sums, differences and shifts (R83 to R87) -/

/-- Settles O44: ADD is a result with a flag, the sum and its carry. -/
theorem addSetsCarry : Obligations.AddSetsCarry := by
  refine fun x y => ⟨decodeOfEncodeIsIdentity (.addReg x y) rfl, fun s => ?_⟩
  obtain ⟨t, ht, hx, hvf, hframe⟩ :=
    s.writeFlagged_spec x (sumByte (s.reg x) (s.reg y)) (carry (s.reg x) (s.reg y))
  exact ⟨t, ht, fun hne => hx hne ▸ toNat_sumByte _ _, hvf.trans (flagByte_decide _), hframe⟩

/-- What SUB and SUBN share: the difference of two bytes in V[x], then its NOT-borrow. -/
theorem State.writeFlagged_diffByte_spec (s : State) (x : RegIx) (a b : Byte) :
    ∃ t, s.writeFlagged x (diffByte a b) (notBorrow a b) = .next t ∧
      (x ≠ 0xF#4 → (t.reg x).toNat = (a.toNat + 256 - b.toNat) % 256) ∧
      t.reg 0xF#4 = (if b.toNat ≤ a.toNat then 1 else 0) ∧
      t.pc = s.pc + 2 ∧ RegsBut [x, 0xF#4] s t ∧ SameBut [.regs] s t := by
  obtain ⟨t, ht, hx, hvf, hframe⟩ := s.writeFlagged_spec x (diffByte a b) (notBorrow a b)
  exact ⟨t, ht, fun hne => hx hne ▸ toNat_diffByte a b, hvf.trans (flagByte_decide _), hframe⟩

/-- Settles O45: SUB and SUBN are the same write, with the operands exchanged. -/
theorem subtractSetsNotBorrow : Obligations.SubtractSetsNotBorrow := fun x y =>
  ⟨decodeOfEncodeIsIdentity (.subReg x y) rfl, decodeOfEncodeIsIdentity (.subn x y) rfl, fun s =>
    ⟨s.writeFlagged_diffByte_spec x (s.reg x) (s.reg y), s.writeFlagged_diffByte_spec x (s.reg y) (s.reg x)⟩⟩

/-- Settles O46: each shift is a result with a flag, the bit it shifts out: as a number, Vx modulo 2 for SHR and Vx
over 128 for SHL. -/
theorem shiftsSetShiftedOutBit : Obligations.ShiftsSetShiftedOutBit := by
  refine fun x y => ⟨decodeOfEncodeIsIdentity (.shr x y) rfl, decodeOfEncodeIsIdentity (.shl x y) rfl,
    fun s => ⟨?_, ?_⟩⟩
  · obtain ⟨t, ht, hx, hvf, hframe⟩ := s.writeFlagged_spec x (shiftedRight (s.reg x)) (lowBit (s.reg x))
    exact ⟨t, ht, fun hne => hx hne ▸ toNat_shiftedRight _, hvf ▸ toNat_flagByte_lowBit _, hframe⟩
  · obtain ⟨t, ht, hx, hvf, hframe⟩ := s.writeFlagged_spec x (shiftedLeft (s.reg x)) (highBit (s.reg x))
    exact ⟨t, ht, fun hne => hx hne ▸ toNat_shiftedLeft _, hvf ▸ toNat_flagByte_highBit _, hframe⟩

/-! ## Results without a flag (R77 to R82) -/

/-- Settles O41: the immediate is a result without a flag. -/
theorem loadImmediateWritesRegister : Obligations.LoadImmediateWritesRegister := fun x kk =>
  ⟨decodeOfEncodeIsIdentity (.ldImm x kk) rfl, fun s => s.write_spec x kk⟩

/-- Settles O42: the wrapped sum is a result without a flag. -/
theorem addImmediateWrapsWithoutFlag : Obligations.AddImmediateWrapsWithoutFlag := by
  refine fun x kk => ⟨decodeOfEncodeIsIdentity (.addImm x kk) rfl, fun s => ?_⟩
  obtain ⟨t, ht, hx, hframe⟩ := s.write_spec x (sumByte (s.reg x) kk)
  exact ⟨t, ht, hx ▸ toNat_sumByte _ _, hframe⟩

/-- Settles O43: each of the four is a result without a flag; the logical ones are bitwise on `BitVec`. -/
theorem moveAndLogicLeaveFlags : Obligations.MoveAndLogicLeaveFlags := by
  refine fun x y => ⟨decodeOfEncodeIsIdentity (.mov x y) rfl, decodeOfEncodeIsIdentity (.orReg x y) rfl,
    decodeOfEncodeIsIdentity (.andReg x y) rfl, decodeOfEncodeIsIdentity (.xorReg x y) rfl,
    fun s => ⟨s.write_spec x (s.reg y), ?_, ?_, ?_⟩⟩
  · obtain ⟨t, ht, hx, hframe⟩ := s.write_spec x (s.reg x ||| s.reg y)
    exact ⟨t, ht, fun k => hx ▸ BitVec.getLsbD_or, hframe⟩
  · obtain ⟨t, ht, hx, hframe⟩ := s.write_spec x (s.reg x &&& s.reg y)
    exact ⟨t, ht, fun k => hx ▸ BitVec.getLsbD_and, hframe⟩
  · obtain ⟨t, ht, hx, hframe⟩ := s.write_spec x (s.reg x ^^^ s.reg y)
    exact ⟨t, ht, fun k => hx ▸ BitVec.getLsbD_xor, hframe⟩

/-! ## The random draw (R90) -/

/-- The remainder is at most `kk`, so it is a byte. -/
theorem toNat_boundedDraw (r : Nat) (kk : Byte) : (boundedDraw r kk).toNat = r % (kk.toNat + 1) := by
  have hlt : r % (kk.toNat + 1) < kk.toNat + 1 := Nat.mod_lt _ (Nat.succ_pos _)
  exact Nat.mod_eq_of_lt (hlt.trans_le kk.isLt)

/-- A value of 0..kk is the result of the draw that answers it. -/
theorem boundedDraw_toNat {v kk : Byte} (h : v.toNat ≤ kk.toNat) : boundedDraw v.toNat kk = v := by
  apply BitVec.eq_of_toNat_eq
  rw [toNat_boundedDraw, Nat.mod_eq_of_lt (Nat.lt_succ_of_le h)]

theorem Part.same_draw (s : State) {p : Part} (hp : p ≠ .random) : p.same s s.draw.2 := by
  cases p
  case random => exact absurd rfl hp
  all_goals simp [Part.same]

/-- Settles O47: RND is a result without a flag in the state that has made the draw, which differs from the one
before in the number of draws alone. -/
theorem randomIsBoundedByImmediate : Obligations.RandomIsBoundedByImmediate := by
  refine fun x kk => ⟨decodeOfEncodeIsIdentity (.rnd x kk) rfl, fun s => ?_, fun r => toNat_boundedDraw r kk,
    fun v hv => ⟨v.toNat, boundedDraw_toNat hv⟩⟩
  obtain ⟨t, ht, hx, hpc, hregs, hframe⟩ := s.draw.2.write_spec x (boundedDraw s.draw.1 kk)
  refine ⟨t, ht, hx, hframe .random (by decide), hpc, hregs, fun p hp => ?_⟩
  obtain ⟨hne, hp⟩ := List.ne_and_not_mem_of_not_mem_cons hp
  have hregs : p ∉ [Part.regs] := List.not_mem_cons_of_ne_of_not_mem hne List.not_mem_nil
  exact (Part.same_draw s (List.ne_of_not_mem_cons hp)).trans (hframe p hregs)

end Sys2Proof.Machine
end

section
/-! I and memory: the loads of I, FX1E, and the runs of bytes that FX33, FX55 and FX65 move between V and memory
(43_index_memory.md R91 to R96). -/

namespace Sys2Proof.Machine

/-! ## Frames -/

theorem SameBut.mono {ps qs : List Part} {s t : State} (h : SameBut ps s t) (hsub : ps ⊆ qs) : SameBut qs s t :=
  fun p hp => h p fun hmem => hp (hsub hmem)

theorem SameBut.trans {ps : List Part} {s t u : State} (h : SameBut ps s t) (h' : SameBut ps t u) :
    SameBut ps s u :=
  fun p hp => (h p hp).trans (h' p hp)

theorem SameBut.advance {ps : List Part} {s t : State} (h : SameBut ps s t) : SameBut ps s t.advance :=
  fun p hp => (h p hp).trans (Part.same_advance t p)

theorem sameBut_setI (s : State) (a : Word) : SameBut [.index] s (s.setI a) := by
  intro p hp
  cases p
  case index => exact absurd List.mem_cons_self hp
  all_goals simp [Part.same]

theorem sameBut_setFlag (s : State) (c : Bool) : SameBut [.regs] s (s.setFlag c) :=
  fun _ hp => Part.same_setReg s vf _ (List.ne_of_not_mem_cons hp)

theorem sameBut_writeBytes (s : State) (a : Nat) (bs : List Byte) : SameBut [.memory] s (s.writeBytes a bs) := by
  intro p hp
  cases p
  case memory => exact absurd List.mem_cons_self hp
  all_goals simp [Part.same]

theorem sameBut_setRegs (s : State) (k : Nat) (bs : List Byte) : SameBut [.regs] s (s.setRegs k bs) := by
  intro p hp
  cases p
  case regs => exact absurd List.mem_cons_self hp
  all_goals simp [Part.same]

theorem regsBut_setFlag (s : State) (c : Bool) : RegsBut [0xF#4] s (s.setFlag c) :=
  fun _ hr => s.reg_setReg_ne _ (List.ne_of_not_mem_cons hr)

theorem memoryBut_writeBytes (s : State) (a : Nat) (bs : List Byte) :
    MemoryBut a bs.length s (s.writeBytes a bs) :=
  s.readByte_writeBytes_ne a bs

/-! ## Loads of I (R91, R93) -/

/-- Five times a byte fits in 16 bits. -/
theorem toNat_glyphAddress (b : Byte) : (glyphAddress b).toNat = 5 * b.toNat := by
  unfold glyphAddress
  bv_omega

/-- Settles O48: ANNN writes I and pc alone. -/
theorem loadIndexStoresAddress : Obligations.LoadIndexStoresAddress := fun nnn =>
  ⟨decodeOfEncodeIsIdentity (.ldI nnn) rfl,
    fun s => ⟨(s.setI (addressOf nnn)).advance, rfl, toNat_addressOf nnn, rfl, (sameBut_setI s _).advance⟩⟩

/-- Settles O50: FX29 writes I and pc alone, and the product does not wrap (`toNat_glyphAddress`). -/
theorem loadFontAddressIsFiveTimesVx : Obligations.LoadFontAddressIsFiveTimesVx := fun x =>
  ⟨decodeOfEncodeIsIdentity (.ldF x) rfl,
    fun s => ⟨(s.setI (glyphAddress (s.reg x))).advance, rfl, toNat_glyphAddress _, rfl,
      (sameBut_setI s _).advance⟩⟩

/-! ## FX1E (R92) -/

theorem exec_addI_of_overflow {s : State} {x : RegIx} (h : 0xFFF < s.i.toNat + (s.reg x).toNat) :
    exec (.addI x) s = .next (s.setFlag true).advance :=
  congrArg _ (if_pos (decide_eq_true h))

theorem exec_addI_of_le {s : State} {x : RegIx} (h : s.i.toNat + (s.reg x).toNat ≤ 0xFFF) :
    exec (.addI x) s = .next ((s.setI (BitVec.ofNat 16 (indexSum s.i (s.reg x)))).setFlag false).advance :=
  congrArg _ (if_neg fun hover => (of_decide_eq_true hover).not_ge h)

/-- A sum without overflow is not cut to 16 bits. -/
theorem toNat_ofNat_indexSum {i : Word} {b : Byte} (h : i.toNat + b.toNat ≤ 0xFFF) :
    (BitVec.ofNat 16 (indexSum i b)).toNat = i.toNat + b.toNat :=
  Nat.mod_eq_of_lt (h.trans_lt (by decide))

/-- Settles O49, by whether the sum exceeds 0xFFF: on overflow the flag alone is written, else I and then the flag. -/
theorem addIndexKeepsIndexOnOverflow : Obligations.AddIndexKeepsIndexOnOverflow := by
  refine fun x => ⟨decodeOfEncodeIsIdentity (.addI x) rfl, fun s => ?_⟩
  rcases lt_or_ge 0xFFF (s.i.toNat + (s.reg x).toNat) with hover | hle
  · have hframe : SameBut [.regs, .index] s (s.setFlag true) := (sameBut_setFlag s true).mono (by simp)
    exact ⟨_, exec_addI_of_overflow hover, fun _ => ⟨rfl, s.reg_vf_setFlag true⟩,
      fun hle => absurd hle hover.not_ge, rfl, regsBut_setFlag s true, hframe.advance⟩
  · have hframe (a : Word) : SameBut [.regs, .index] s ((s.setI a).setFlag false) :=
      ((sameBut_setI s a).mono (by simp)).trans ((sameBut_setFlag _ false).mono (by simp))
    exact ⟨_, exec_addI_of_le hle, fun hover => absurd hle hover.not_ge,
      fun _ => ⟨toNat_ofNat_indexSum hle, State.reg_vf_setFlag _ false⟩, rfl,
      regsBut_setFlag (s.setI _) false, (hframe _).advance⟩

/-! ## FX33 (R94) -/

/-- The three digits read back after FX33's stores: three bytes are fewer than MEM_SIZE. -/
theorem State.readByte_writeBytes_bcdDigits (s : State) (a : Nat) (b : Byte) {k : Nat} (h : k < 3) :
    (s.writeBytes a (bcdDigits b)).readByte (a + k) = (bcdDigits b)[k]'h :=
  s.readByte_writeBytes a (bcdDigits b) k h (le_trans (by decide : 3 ≤ 0x200) s.cfg.memSize_low.le)

/-- A number below 256 is the number of its byte. -/
theorem toNat_eq_of_eq_ofNat {b : Byte} {n : Nat} (h : b = BitVec.ofNat 8 n) (hn : n < 256) : b.toNat = n := by
  rw [h, BitVec.toNat_ofNat, Nat.mod_eq_of_lt hn]

/-- Settles O51: the digits read back, and each is below 256, so its byte holds it. -/
theorem storeBcdDigits : Obligations.StoreBcdDigits := by
  refine fun x => ⟨decodeOfEncodeIsIdentity (.ldB x) rfl, fun s => ?_⟩
  have hread {k : Nat} (h : k < 3) := s.readByte_writeBytes_bcdDigits s.i.toNat (s.reg x) h
  have hbyte := (s.reg x).isLt
  exact ⟨(s.writeBytes s.i.toNat (bcdDigits (s.reg x))).advance, rfl,
    congrArg (· + 2) (State.writeBytes_pc s _ _),
    toNat_eq_of_eq_ofNat (hread (k := 0) (by decide)) (by omega),
    toNat_eq_of_eq_ofNat (hread (k := 1) (by decide)) (by omega),
    toNat_eq_of_eq_ofNat (hread (k := 2) (by decide)) (by omega),
    memoryBut_writeBytes s _ (bcdDigits (s.reg x)), (sameBut_writeBytes s _ _).advance⟩

/-! ## FX55 and FX65 (R95, R96) -/

/-- Settles O52: the stored registers read back by `State.readByte_writeBytes_regRun`. -/
theorem storeRegistersFromIndex : Obligations.StoreRegistersFromIndex := by
  refine fun x => ⟨decodeOfEncodeIsIdentity (.ldMemVx x) rfl, fun s => ?_⟩
  have hmem := memoryBut_writeBytes s s.i.toNat (s.regRun x)
  rw [s.length_regRun x] at hmem
  exact ⟨(s.writeBytes s.i.toNat (s.regRun x)).advance, rfl, congrArg (· + 2) (State.writeBytes_pc s _ _),
    fun k hk => s.readByte_writeBytes_regRun s.i.toNat hk, hmem, (sameBut_writeBytes s _ _).advance⟩

/-- A register of FX65's loaded run holds the byte at its own offset. -/
theorem State.reg_setRegs_readBytes (s : State) (a : Nat) {x k : RegIx} (h : k.toNat ≤ x.toNat) :
    (s.setRegs 0 (s.readBytes a (x.toNat + 1))).reg k = s.readByte (a + k.toNat) := by
  have hx := x.isLt
  have hlen := s.length_readBytes a (x.toNat + 1)
  rw [State.reg_setRegs s 0 _ k k.toNat (by omega) (by omega) (by omega), State.getElem_readBytes]

/-- Settles O53: the loaded run by `State.reg_setRegs_readBytes`; it reaches no register above V[x]
(`toNat_le_of_reg_setRegs_ne`). -/
theorem loadRegistersFromIndex : Obligations.LoadRegistersFromIndex := by
  refine fun x => ⟨decodeOfEncodeIsIdentity (.ldVxMem x) rfl, fun s => ?_⟩
  refine ⟨(s.setRegs 0 (s.readBytes s.i.toNat (x.toNat + 1))).advance, rfl,
    congrArg (· + 2) (State.setRegs_pc s _ _), fun k hk => s.reg_setRegs_readBytes s.i.toNat hk, fun k hk => ?_,
    (sameBut_setRegs s _ _).advance⟩
  by_contra hne
  exact hk.not_ge (toNat_le_of_reg_setRegs_ne hne)

end Sys2Proof.Machine
end

section
/-! Keys and timers: the skips on a key, the timer moves, and FX0A from its issue to the answer of its wait
(44_keys_timers.md R97 to R102). -/

namespace Sys2Proof.Machine

/-! ## Skips on a key (R97, R98) -/

theorem toNat_keyIndex (b : Byte) : (keyIndex b).toNat = b.toNat % 16 := by
  simp [keyIndex]

/-- The key that a register names is the one with the register's low 4 bits as its number. -/
theorem State.keyOf_eq {s : State} {x : RegIx} {k : KeyCode} (h : k.toNat = (s.reg x).toNat % 16) :
    s.keyOf x = k :=
  BitVec.eq_of_toNat_eq ((toNat_keyIndex _).trans h.symm)

/-- Settles O54: both are skips (`State.skipIf_spec`), on the state of the key that Vx names. -/
theorem skipsOnKey : Obligations.SkipsOnKey := by
  refine fun x => ⟨decodeOfEncodeIsIdentity (.skp x) rfl, decodeOfEncodeIsIdentity (.sknp x) rfl, fun s k hk => ?_⟩
  obtain rfl := State.keyOf_eq hk
  exact ⟨⟨_, rfl, s.skipIf_spec beq_iff_eq⟩, ⟨_, rfl, s.skipIf_spec beq_iff_eq⟩⟩

/-! ## Timer moves (R99 to R101) -/

theorem sameBut_setDt (s : State) (b : Byte) : SameBut [.delay] s (s.setDt b) := by
  intro p hp
  cases p
  case delay => exact absurd List.mem_cons_self hp
  all_goals simp [Part.same]

theorem sameBut_setSt (s : State) (b : Byte) : SameBut [.sound] s (s.setSt b) := by
  intro p hp
  cases p
  case sound => exact absurd List.mem_cons_self hp
  all_goals simp [Part.same]

/-- Settles O55: FX07 is a result without a flag (`State.write_spec`); the others write one timer and pc alone. -/
theorem timersAreReadAndWritten : Obligations.TimersAreReadAndWritten := fun x =>
  ⟨decodeOfEncodeIsIdentity (.ldVxDt x) rfl, decodeOfEncodeIsIdentity (.ldDtVx x) rfl,
    decodeOfEncodeIsIdentity (.ldStVx x) rfl, fun s =>
    ⟨s.write_spec x s.dt, ⟨(s.setDt (s.reg x)).advance, rfl, rfl, rfl, (sameBut_setDt s _).advance⟩,
      ⟨(s.setSt (s.reg x)).advance, rfl, rfl, rfl, (sameBut_setSt s _).advance⟩⟩⟩

/-! ## The key wait (R102) -/

theorem toNat_keyByte (k : KeyCode) : (keyByte k).toNat = k.toNat :=
  BitVec.toNat_setWidth_of_le (by decide)

theorem sameBut_setRun (s : State) (r : Run) : SameBut [.control] s (s.setRun r) := by
  intro p hp
  cases p
  case control => exact absurd List.mem_cons_self hp
  all_goals simp [Part.same]

/-! The step of a waiting machine, by the next answer. -/

section

variable {s : State} {x : RegIx} (hr : s.run = .waiting x)

include hr

theorem step_waiting_unanswered (h : s.waits = []) : step s = .next s := by
  rw [step_waiting hr, resolveStep, h]

theorem step_waiting_key {k : KeyCode} {rest : List WaitAnswer} (h : s.waits = .keyReceived k :: rest) :
    step s = .next { ((s.setReg x (keyByte k)).setKey k .pressed).advance with
      run := .running, slot := s.slot + 1, waits := rest } := by
  rw [step_waiting hr, resolveStep, h]

theorem step_waiting_halt {rest : List WaitAnswer} (h : s.waits = .halt :: rest) :
    step s = .next { s with run := .halted, waits := rest } := by
  rw [step_waiting hr, resolveStep, h]

end

theorem sameBut_keyReceived (s : State) (x : RegIx) (k : KeyCode) (rest : List WaitAnswer) :
    SameBut [.regs, .keys, .control, .loop, .input] s
      { ((s.setReg x (keyByte k)).setKey k .pressed).advance with
        run := .running, slot := s.slot + 1, waits := rest } := by
  intro p hp
  cases p
  case regs | keys | control | loop | input => exact absurd hp (by decide)
  all_goals simp [Part.same, State.readByte, State.stackAt]

theorem sameBut_haltReceived (s : State) (rest : List WaitAnswer) :
    SameBut [.control, .input] s { s with run := .halted, waits := rest } := by
  intro p hp
  cases p
  case control | input => exact absurd hp (by decide)
  all_goals simp [Part.same, State.reg, State.key, State.readByte, State.stackAt]

/-- Settles O22: the issue writes RUN alone, and each answer of the wait gives the state of its own step lemma. On a
key, Vx and KEY[k] read back as written. -/
theorem keyWaitIssuesAndResolves : Obligations.KeyWaitIssuesAndResolves := by
  refine fun x => ⟨decodeOfEncodeIsIdentity (.ldVxK x) rfl,
    fun s => ⟨s.setRun (.waiting x), rfl, rfl, rfl, sameBut_setRun s _⟩, fun s hr =>
    ⟨step_waiting_unanswered hr, fun k rest h => ?_, fun rest h => ?_⟩⟩
  · have hkey (k' : KeyCode) := (s.setReg x (keyByte k)).key_setKey k k' .pressed
    refine ⟨_, step_waiting_key hr h, ?_, ?_, fun k' hk => ?_, rfl, rfl, rfl, rfl, rfl, rfl, fun r hne => ?_,
      sameBut_keyReceived s x k rest⟩
    · exact (congrArg BitVec.toNat (s.reg_setReg_same x (keyByte k))).trans (toNat_keyByte k)
    · exact (hkey k).trans (if_pos rfl)
    · exact (hkey k').trans (if_neg hk)
    · exact s.reg_setReg_ne (keyByte k) (List.ne_of_not_mem_cons hne)
  · exact ⟨_, step_waiting_halt hr h, rfl, rfl, rfl, rfl, sameBut_haltReceived s rest⟩

end Sys2Proof.Machine
end

section
/-! The pacing loop (60_exceptions.md R104 to R115, 70_reset_and_hazards.md R120, R130): what each transition of R110
leaves behind, and what a run from poll to frame end completes. -/

namespace Sys2Proof.Machine

/-! ## Runs that do not stop (R104, R105, R115) -/

/-- Settles O23, by induction on the number of steps: each answers the same state. -/
theorem haltedKeepsTheFinalState : Obligations.HaltedKeepsTheFinalState := by
  intro n s h
  induction n with
  | zero => rfl
  | succ n ih => rw [runSteps_succ n (step_halted h), ih]

/-- Settles O12, which is the loop's last guard. -/
theorem slotBeyondBatchStops : Obligations.SlotBeyondBatchStops := fun _ hr hp hs => step_slotBeyondBatch hr hp hs

/-- A running machine inside a batch takes a step as long as SLOT is within it. -/
theorem exists_step_inBatch {s : State} (hr : s.run = .running) (hp : s.phase = .inBatch)
    (hs : s.slot ≤ s.cfg.ipf) : ∃ t, step s = .next t := by
  rcases hs.lt_or_eq with hlt | heq
  · obtain ⟨t, ht⟩ := noInstructionFails (decode s.fetch) s
    exact ⟨t.retire, by rw [step_inBatch hr hp hlt, instrStep, ht]⟩
  · exact ⟨_, step_atFrameEnd ⟨hr, hp, heq⟩⟩

theorem exists_step_of_inv {s : State} (h : s.Inv) : ∃ t, step s = .next t := by
  obtain ⟨-, -, hs, -⟩ := h
  cases hr : s.run with
  | halted => exact ⟨s, step_halted hr⟩
  | waiting x => exact ⟨_, step_waiting hr⟩
  | running =>
    cases hp : s.phase with
    | atPoll => exact ⟨_, step_atPoll hr hp⟩
    | inBatch => exact exists_step_inBatch hr hp hs

theorem safe_of_inv {s : State} (h : s.Inv) : Safe s := by
  intro n
  induction n generalizing s with
  | zero => exact ⟨s, rfl⟩
  | succ n ih =>
    obtain ⟨t, ht⟩ := exists_step_of_inv h
    rw [runSteps_succ n ht]
    exact ih (stepKeepsInvariant s t h ht)

theorem inv_boot (cfg : Config) (program : List Byte) : (boot cfg program).Inv := by
  have hm := boot_wf cfg program
  rw [boot_fields] at hm ⊢
  exact inv_of_not_waiting hm (Nat.zero_le _) (Nat.zero_le _) (by simp [State.reset])

/-- Settles O10: a state with the invariant has a step, and the step keeps the invariant. -/
theorem runsFromInvariantNeverStop : Obligations.RunsFromInvariantNeverStop :=
  ⟨fun _ => safe_of_inv, fun cfg program => safe_of_inv (inv_boot cfg program)⟩

/-! ## An instruction's step (R110) -/

theorem State.retire_of_running {t : State} (h : t.run = .running) : t.retire = { t with slot := t.slot + 1 } := by
  rw [State.retire, h]

theorem State.retire_of_waiting {t : State} {x : RegIx} (h : t.run = .waiting x) : t.retire = t := by
  rw [State.retire, h]

/-- Retiring an instruction writes SLOT alone. -/
theorem State.retire_eq (t : State) : t.retire = { t with slot := t.retire.slot } := by
  rcases t.retire_cases with ⟨-, e⟩ | ⟨-, e⟩ <;> rw [e]

@[simp] theorem State.retire_run (t : State) : t.retire.run = t.run := by rw [State.retire_eq]

@[simp] theorem State.retire_phase (t : State) : t.retire.phase = t.phase := by rw [State.retire_eq]

@[simp] theorem State.retire_keys (t : State) : t.retire.keys = t.keys := by rw [State.retire_eq]

@[simp] theorem State.retire_dt (t : State) : t.retire.dt = t.dt := by rw [State.retire_eq]

/-- Settles O6: the two bytes are the fetch, and an instruction leaves a running machine running or waiting
(`exec_run`), which is what decides the slot. -/
theorem stepRunsTheDecodedInstruction : Obligations.StepRunsTheDecodedInstruction := by
  intro s i hr hp hs hi
  change decode s.fetch = i at hi
  obtain ⟨t, ht⟩ := noInstructionFails i s
  rw [step_inBatch hr hp hs, instrStep, hi, ht]
  rcases exec_run ht with hrun | ⟨x, -, hrun⟩
  · have hrun : t.run = .running := hrun.trans hr
    simp only [State.retire_of_running hrun, hrun, if_true]
  · simp [State.retire_of_waiting hrun, hrun]

/-! ## The poll (R107, R113) -/

theorem pollStep_of_nil {s : State} (h : s.polls = []) :
    pollStep s = { s with slot := 0, phase := .inBatch, polls := [] } := by
  rw [pollStep, State.nextPoll, h]
  rfl

section

variable {s : State} {a : PollAnswer} {rest : List PollAnswer} (h : s.polls = a :: rest)

include h

theorem pollStep_of_halt (ha : a.halt = true) : pollStep s = { s with run := .halted, polls := rest } := by
  rw [pollStep, State.nextPoll, h]
  exact if_pos ha

theorem pollStep_of_not_halt (ha : a.halt = false) :
    pollStep s = { s.applyKeys a.transitions with slot := 0, phase := .inBatch, polls := rest } := by
  rw [pollStep, State.nextPoll, h]
  exact if_neg (by simp [ha])

end

/-- A key holds the value of the last transition for it, else its old one. -/
theorem State.key_applyKeys (s : State) (es : List KeyEvent) (k : KeyCode) :
    (s.applyKeys es).key k = ((es.reverse.find? fun e => e.key = k).map KeyEvent.value).getD (s.key k) := by
  induction es using List.reverseRecOn with
  | nil => rfl
  | append_singleton es e ih =>
    have hlast : s.applyKeys (es ++ [e]) = (s.applyKeys es).setKey e.key e.value := by simp [State.applyKeys]
    rw [hlast, State.key_setKey, ih, List.reverse_append, List.reverse_singleton, List.singleton_append,
      List.find?_cons]
    by_cases hk : e.key = k
    · simp [hk]
    · simp [hk, Ne.symm hk]

theorem sameBut_pollHalt (s : State) (rest : List PollAnswer) :
    SameBut [.control, .input] s { s with run := .halted, polls := rest } := by
  intro p hp
  cases p
  case control | input => exact absurd hp (by decide)
  all_goals simp [Part.same, State.reg, State.key, State.readByte, State.stackAt]

theorem sameBut_pollOpen (s : State) (es : List KeyEvent) (rest : List PollAnswer) :
    SameBut [.keys, .loop, .input] s { s.applyKeys es with slot := 0, phase := .inBatch, polls := rest } := by
  rw [State.applyKeys_eq]
  intro p hp
  cases p
  case keys | loop | input => exact absurd hp (by decide)
  all_goals simp [Part.same, State.reg, State.readByte, State.stackAt]

/-- Settles O20, by the halt request of the answer: without one the keys are those of `State.key_applyKeys`. -/
theorem pollAppliesTransitionsOrHalts : Obligations.PollAppliesTransitionsOrHalts := by
  intro s a rest hr hp hpolls
  have hcount := batchCount_pollStep hp
  refine ⟨pollStep s, step_atPoll hr hp, ?_⟩
  cases ha : a.halt with
  | true =>
    rw [pollStep_of_halt hpolls ha] at hcount ⊢
    exact ⟨rfl, rfl, rfl, hcount, id, fun _ => ⟨rfl, sameBut_pollHalt s rest⟩, fun h => absurd h (by decide)⟩
  | false =>
    rw [pollStep_of_not_halt hpolls ha] at hcount ⊢
    exact ⟨s.applyKeys_pc _, rfl, s.applyKeys_waits _, hcount, fun _ => rfl, fun h => absurd h (by decide),
      fun _ => ⟨rfl, rfl, sameBut_pollOpen s _ rest, s.key_applyKeys a.transitions⟩⟩

/-! ## The frame end (R111, R114) -/

theorem toNat_tick (b : Byte) : (tick b).toNat = b.toNat - 1 := by
  unfold tick
  split
  · next h => rw [h]; rfl
  · next h => bv_omega

theorem sameBut_frameEndStep (s : State) : SameBut [.delay, .sound, .loop, .output] s (frameEndStep s) := by
  intro p hp
  cases p
  case delay | sound | loop | output => exact absurd hp (by decide)
  all_goals simp [Part.same, frameEndStep, State.reg, State.key, State.readByte, State.stackAt]

/-- Settles O21: a tick is the truncated predecessor (`toNat_tick`). -/
theorem frameEndPresentsAndTicks : Obligations.FrameEndPresentsAndTicks := by
  intro s hr hp hs
  have hdt : (frameEndStep s).dt.toNat = s.dt.toNat - 1 := toNat_tick s.dt
  have hst : (frameEndStep s).st.toNat = s.st.toNat - 1 := toNat_tick s.st
  exact ⟨frameEndStep s, step_atFrameEnd ⟨hr, hp, hs⟩, rfl, by omega, by omega, by omega, by omega, rfl, rfl, rfl, rfl,
    batchCount_frameEndStep s, sameBut_frameEndStep s⟩

/-! ## Where KEY, DT and RUN change (R106, R115, R120, R130) -/

theorem resolveStep_dt (x : RegIx) (s : State) : (resolveStep x s).dt = s.dt := by
  rcases resolveStep_cases x s with ⟨-, e⟩ | ⟨k, rest, -, e⟩ | ⟨rest, -, e⟩
  all_goals simp [e]

theorem pollStep_dt (s : State) : (pollStep s).dt = s.dt := by
  rcases pollStep_cases s with e | e <;> rw [e]

/-- Settles O17, by the transition the step takes (`step_cases`): a poll and a wait keep DT, a frame end keeps KEY, and
an instruction keeps KEY and writes DT only as FX15 (`onlyTheNamedInstructionsWriteEachPart`). -/
theorem keysAndDelayChangeOnlyWhereStated : Obligations.KeysAndDelayChangeOnlyWhereStated := by
  intro s t h
  rcases step_cases h with ⟨-, rfl⟩ | ⟨x, hr, rfl⟩ | ⟨hr, hp, rfl⟩ | ⟨hr, hp, hs, rfl⟩ | ⟨hr, hp, -, u, hu, rfl⟩
  · exact ⟨absurd rfl, absurd rfl⟩
  · exact ⟨fun _ => .inr ⟨x, hr⟩, absurd (resolveStep_dt x s)⟩
  · exact ⟨fun _ => .inl ⟨hr, hp⟩, absurd (pollStep_dt s)⟩
  · exact ⟨absurd rfl, fun _ => ⟨hr, hp, .inl hs⟩⟩
  · obtain ⟨-, -, -, hdt, -, -, -, -, -, hkeys, -⟩ := onlyTheNamedInstructionsWriteEachPart _ s u hu
    rw [State.retire_keys, State.retire_dt]
    exact ⟨absurd hkeys, fun hne => ⟨hr, hp, .inr (hdt hne)⟩⟩

/-- A poll leaves RUN as it is, or halts on the answer's request. -/
theorem pollStep_run_cases (s : State) :
    (pollStep s).run = s.run ∨
    ((pollStep s).run = .halted ∧ ∃ a rest, s.polls = a :: rest ∧ a.halt = true) := by
  cases h : s.polls with
  | nil => exact .inl (by rw [pollStep_of_nil h])
  | cons a rest =>
    cases ha : a.halt with
    | true => exact .inr ⟨by rw [pollStep_of_halt h ha], a, rest, rfl, ha⟩
    | false => exact .inl (by rw [pollStep_of_not_halt h ha]; exact s.applyKeys_run _)

/-- Settles O18, by the transition the step takes (`step_cases`) and what it does to RUN. -/
theorem waitAndHaltAreEnteredOnlyWhereStated : Obligations.WaitAndHaltAreEnteredOnlyWhereStated := by
  intro s t h
  rcases step_cases h with ⟨-, rfl⟩ | ⟨x, hr, rfl⟩ | ⟨hr, hp, rfl⟩ | ⟨hr, -, -, rfl⟩ | ⟨hr, hp, hlt, u, hu, rfl⟩
  · exact ⟨.inl, fun _ => .inl⟩
  · rcases resolveStep_cases x s with ⟨-, e⟩ | ⟨k, rest, -, e⟩ | ⟨rest, hw, e⟩
    · rw [e]
      exact ⟨.inl, fun _ => .inl⟩
    · rw [e]
      exact ⟨nofun, nofun⟩
    · exact ⟨fun _ => .inr (.inr ⟨⟨x, hr⟩, rest, hw⟩), by rw [e]; exact nofun⟩
  · rcases pollStep_run_cases s with e | ⟨e, hpolls⟩
    · rw [e]
      exact ⟨.inl, fun _ => .inl⟩
    · exact ⟨fun _ => .inr (.inl ⟨hr, hp, hpolls⟩), by rw [e]; exact nofun⟩
  · exact ⟨.inl, fun _ => .inl⟩
  · rw [State.retire_run]
    refine ⟨fun hhalt => ?_, fun x hx => .inr ⟨hr, hp, hlt, (eq_setRun_of_exec_waiting hu hr hx).1⟩⟩
    rcases exec_run hu with e | ⟨x, -, e⟩
    · exact .inl (e.symm.trans hhalt)
    · exact absurd (e.symm.trans hhalt) nofun

/-! ## What a frame completes (R112) -/

theorem completedIn_succ {s t : State} (n : Nat) (h : step s = .next t) :
    completedIn (n + 1) s = completedBy s t + completedIn n t := by
  simp only [completedIn, h]

/-- Inside a batch, every step but the frame end stays in the batch and counts what it completes. Unlike
`batchCount_step` it needs no invariant: a wait is inside the batch because the state is. -/
theorem batchCount_step_inBatch {s t : State} (hp : s.phase = .inBatch) (h : step s = .next t)
    (hne : ¬ s.atFrameEnd) : t.phase = .inBatch ∧ t.batchCount = s.batchCount + completedBy s t := by
  rcases step_cases h with ⟨hr, rfl⟩ | ⟨x, hr, rfl⟩ | ⟨-, hp', -⟩ | ⟨hr, -, hs, -⟩ | ⟨hr, -, hlt, u, hu, rfl⟩
  · exact ⟨hp, by simp [completedBy, hr]⟩
  · refine ⟨?_, batchCount_resolveStep hr hp⟩
    rcases resolveStep_cases x s with ⟨-, e⟩ | ⟨k, rest, -, e⟩ | ⟨rest, -, e⟩
    all_goals rw [e]; exact hp
  · exact absurd (hp.symm.trans hp') nofun
  · exact absurd ⟨hr, hp, hs⟩ hne
  · obtain ⟨-, hphase, -⟩ := exec_loop hu
    exact ⟨by rw [State.retire_phase, hphase, hp], batchCount_retire_of_exec hr hp hlt hu⟩

/-- A run inside a batch that ends no frame counts what it completes. -/
theorem batchCount_runSteps {n : Nat} {s t : State} (hp : s.phase = .inBatch) (hn : NoFrameEnd n s)
    (h : runSteps n s = .next t) : t.batchCount = s.batchCount + completedIn n s := by
  induction n generalizing s with
  | zero =>
    obtain rfl : s = t := Host.Outcome.next.inj h
    rfl
  | succ n ih =>
    obtain ⟨u, hu, hrun⟩ := runSteps_succ_next h
    obtain ⟨hne, hn⟩ := hn
    obtain ⟨hpu, hcount⟩ := batchCount_step_inBatch hp hu hne
    rw [ih hpu (hn u hu) hrun, hcount, completedIn_succ n hu, Nat.add_assoc]

/-- Settles O19: a poll that halts reaches no frame end; one that opens the batch starts its count at 0, from where
`batchCount_runSteps` counts up to SLOT at the frame end, which is IPF. -/
theorem frameCompletesExactlyIpfInstructions : Obligations.FrameCompletesExactlyIpfInstructions := by
  intro n s t hr hp hn h hend
  obtain ⟨hrt, hpt, hslot⟩ := hend
  cases n with
  | zero =>
    obtain rfl : s = t := Host.Outcome.next.inj h
    exact absurd (hp.symm.trans hpt) nofun
  | succ n =>
    have hstep := step_atPoll hr hp
    obtain ⟨-, hn⟩ := hn
    rw [runSteps_succ n hstep] at h
    rw [completedIn_succ n hstep, completedBy_atPoll _ hr hp, Nat.zero_add]
    rcases pollStep_cases s with e | e
    · have hhalt : (pollStep s).run = .halted := by rw [e]
      obtain rfl : pollStep s = t := Host.Outcome.next.inj ((haltedKeepsTheFinalState n _ hhalt).symm.trans h)
      exact absurd (hhalt.symm.trans hrt) nofun
    · have hopen : (pollStep s).phase = .inBatch := by rw [e]
      have hcount := batchCount_runSteps hopen (hn _ hstep) h
      rw [batchCount_pollStep hp, Nat.zero_add, batchCount_inBatch hpt, hslot] at hcount
      exact hcount.symm

end Sys2Proof.Machine
end

section
/-! Boot and the first poll (70_reset_and_hazards.md R122, R123, R125). -/

namespace Sys2Proof.Machine

/-! ## The invariant after boot (R122) -/

theorem reset_eq_boot : State.reset = boot referenceConfig [] := rfl

/-- Settles O8: every boot meets the invariant (`inv_boot`), and reset is the boot of an empty image. -/
theorem invariantHoldsAfterBoot : Obligations.InvariantHoldsAfterBoot :=
  ⟨reset_eq_boot ▸ inv_boot referenceConfig [], inv_boot⟩

/-! ## The fields after boot (R122) -/

section

variable (cfg : Config) (program : List Byte)

@[simp] theorem boot_reg (r : RegIx) : (boot cfg program).reg r = 0 := by
  rw [boot_fields]
  exact Vector.getElem_replicate _

@[simp] theorem boot_i : (boot cfg program).i = 0 := by rw [boot_fields]; rfl

@[simp] theorem boot_pc : (boot cfg program).pc = 0x200 := by rw [boot_fields]; rfl

@[simp] theorem boot_stackAt (j : Fin 16) : (boot cfg program).stackAt j = 0 := by
  rw [boot_fields]
  exact Vector.getElem_replicate _

@[simp] theorem boot_sp : (boot cfg program).sp = 0 := by rw [boot_fields]; rfl

@[simp] theorem boot_dt : (boot cfg program).dt = 0 := by rw [boot_fields]; rfl

@[simp] theorem boot_st : (boot cfg program).st = 0 := by rw [boot_fields]; rfl

@[simp] theorem boot_key (k : KeyCode) : (boot cfg program).key k = .released := by
  rw [boot_fields]
  exact Vector.getElem_replicate _

@[simp] theorem boot_fb : (boot cfg program).fb = blankScreen := by rw [boot_fields]; rfl

@[simp] theorem boot_run : (boot cfg program).run = .running := by rw [boot_fields]; rfl

@[simp] theorem boot_phase : (boot cfg program).phase = .atPoll := by rw [boot_fields]; rfl

@[simp] theorem boot_slot : (boot cfg program).slot = 0 := by rw [boot_fields]; rfl

end

/-! ## The memory after boot (R122) -/

theorem resetByte_font (cfg : Config) {j : Nat} (h : j < 80) : resetByte cfg j = cfg.font[j] := dif_pos h

theorem resetByte_zero (cfg : Config) {a : Nat} (h : 80 ≤ a) : resetByte cfg a = 0 := dif_neg h.not_gt

/-- The font stands below the image, and inside the memory. -/
theorem boot_readByte_font (cfg : Config) (program : List Byte) {j : Nat} (h : j < 80) :
    (boot cfg program).readByte j = cfg.font[j] := by
  have hlow := cfg.memSize_low
  rw [boot_readByte_outside cfg program j (by omega) (.inl (by omega)), resetByte_font cfg h]

/-- The loaded image is no longer than the image, so what is outside the image is not loaded. -/
theorem boot_readByte_zero (cfg : Config) (program : List Byte) {a : Nat} (ha : a < cfg.memSize) (hfont : 80 ≤ a)
    (h : a < 0x200 ∨ 0x200 + program.length ≤ a) : (boot cfg program).readByte a = 0 := by
  have hl := length_loadedImage cfg program
  rw [boot_readByte_outside cfg program a ha (by omega), resetByte_zero cfg hfont]

/-- Settles O24, field by field; a byte of memory is in the image (`boot_readByte_image`), in the font
(`boot_readByte_font`), or in neither (`boot_readByte_zero`). -/
theorem bootLeavesTheStatedState : Obligations.BootLeavesTheStatedState := fun cfg program =>
  ⟨boot_reg cfg program, boot_i cfg program, boot_pc cfg program, boot_stackAt cfg program, boot_sp cfg program,
    boot_dt cfg program, boot_st cfg program, boot_key cfg program,
    by rw [boot_fb]; exact pixel_blankScreen, boot_run cfg program, boot_phase cfg program,
    boot_slot cfg program, boot_cfg cfg program, fun _ => boot_readByte_font cfg program,
    boot_readByte_image cfg program, fun _ => boot_readByte_zero cfg program⟩

/-! ## How boot fails (R105, R123) -/

/-- A file is read as a font exactly when it holds the font's 80 bytes. -/
theorem fontOfFile_eq_some_iff {f : List Byte} {v : Vector Byte 80} : fontOfFile f = some v ↔ v.toList = f := by
  constructor
  · intro h
    unfold fontOfFile at h
    split at h
    · cases h; rfl
    · cases h
  · rintro rfl
    exact dif_pos v.length_toList

/-- Boot answers a state exactly when it read a font and a program, and which state. -/
theorem bootFrom_eq_ok_iff {cfg : Config} {font program : Option (List Byte)} {s : State} :
    bootFrom cfg font program = .ok s ↔
      ∃ (v : Vector Byte 80) (p : List Byte),
        font = some v.toList ∧ program = some p ∧ boot { cfg with font := v } p = s := by
  have hfont (v : Vector Byte 80) : font.bind fontOfFile = some v ↔ font = some v.toList := by
    simp [Option.bind_eq_some_iff, fontOfFile_eq_some_iff]
  simp only [← hfont, bootFrom]
  cases font.bind fontOfFile <;> cases program <;> simp

/-- Settles O25 from `bootFrom_eq_ok_iff`: the files of 80 bytes are the byte lists of the font vectors. -/
theorem bootFailsOnlyOnUnreadableFiles : Obligations.BootFailsOnlyOnUnreadableFiles := by
  have hvector (f : List Byte) (hf : f.length = 80) : ∃ v : Vector Byte 80, v.toList = f :=
    ⟨⟨f.toArray, hf⟩, rfl⟩
  refine fun cfg font program => ⟨⟨?_, ?_⟩, ?_⟩
  · rintro ⟨s, hs⟩
    obtain ⟨v, p, hfont, hprogram, -⟩ := bootFrom_eq_ok_iff.1 hs
    exact ⟨⟨_, hfont, v.length_toList⟩, p, hprogram⟩
  · rintro ⟨⟨f, hfont, hf⟩, p, hprogram⟩
    obtain ⟨v, rfl⟩ := hvector f hf
    exact ⟨_, bootFrom_eq_ok_iff.2 ⟨v, p, hfont, hprogram, rfl⟩⟩
  · intro f p hfont hprogram hf
    obtain ⟨v, rfl⟩ := hvector f hf
    exact ⟨v, rfl, bootFrom_eq_ok_iff.2 ⟨v, p, hfont, hprogram, rfl⟩⟩

/-! ## The first step (R113, R125) -/

theorem sameBut_setPolls (s : State) (answers : List PollAnswer) : SameBut [.input] s { s with polls := answers } := by
  intro p hp
  cases p
  case input => exact absurd hp (by decide)
  all_goals simp [Part.same, State.reg, State.key, State.readByte, State.stackAt]

/-- The first step of a running machine at a poll that is then given its answers, compared with the machine before. -/
theorem step_setPolls {s : State} (a : PollAnswer) (rest : List PollAnswer) (hr : s.run = .running)
    (hp : s.phase = .atPoll) :
    ∃ t, step { s with polls := a :: rest } = .next t ∧ t.pc = s.pc ∧
      t.run = (if a.halt then .halted else .running) ∧ (s.slot = 0 → t.slot = 0) ∧
      SameBut [.control, .keys, .loop, .input] s t := by
  have hinput := (sameBut_setPolls s (a :: rest)).mono (qs := [.control, .keys, .loop, .input]) (by simp)
  obtain ⟨t, hstep, hpc, -, -, -, hslot, hhalt, hopen⟩ :=
    pollAppliesTransitionsOrHalts { s with polls := a :: rest } a rest hr hp rfl
  cases ha : a.halt with
  | true =>
    obtain ⟨hrun, hsame⟩ := hhalt ha
    exact ⟨t, hstep, hpc, hrun, hslot, hinput.trans (hsame.mono (by simp))⟩
  | false =>
    obtain ⟨-, -, hsame, -⟩ := hopen ha
    have hrun : t.run = s.run := hsame .control (by decide)
    exact ⟨t, hstep, hpc, hrun.trans hr, hslot, hinput.trans (hsame.mono (by simp))⟩

/-- Settles O26: boot leaves the machine running at a poll, with pc 0x200 and SLOT 0, and the poll keeps the rest. -/
theorem firstStepAfterBootPolls : Obligations.FirstStepAfterBootPolls := by
  intro cfg program a rest
  obtain ⟨t, hstep, hpc, hrun, hslot, hsame⟩ :=
    step_setPolls a rest (boot_run cfg program) (boot_phase cfg program)
  exact ⟨t, hstep, hpc.trans (boot_pc cfg program), hrun, hslot (boot_slot cfg program), hsame⟩

end Sys2Proof.Machine
end
